-- ==== Sys2Proof/Word.lean ====
section
/-! DEFINITION. The word types of the MARIE core (00_scope.md R7, R8): what the spec treats as bits. -/

namespace Sys2Proof

/-- A memory word, an instruction word, a register: 16 bits (00_scope.md R7, `WORD_BITS` and `REG_BITS`). -/
abbrev Word := BitVec 16

/-- The operand field of an instruction word: 12 bits (R7, `ADDR_BITS`). -/
abbrev Operand := BitVec 12

/-- The opcode field of an instruction word: 4 bits (R7, `OPCODE_BITS`). -/
abbrev Opcode := BitVec 4

end Sys2Proof
end

