-- ==== Sys2Proof/Config.lean ====
section
/-! DEFINITION. What an implementation fixes (00_scope.md R7) and the free values of the model. -/

namespace Sys2Proof

/-- The number of memory words, addresses 0 to 4095 (00_scope.md R7, `MEM_WORDS`; 10_state.md R35). -/
abbrev Config.memWords : Nat := 4096

/-- The largest value a word holds; a store of more is a ValueOverflow (20_memory.md R54). -/
abbrev Config.maxWord : Nat := 65535

/-- One answer of the input source: an integer of magnitude at most 0xFFF, so exactly the integers from -4095 to
4095 (43_io_and_halt.md R170, 10_state.md R41; the spec's decision D7, log entry 10). The type holds no other value,
as 93_implementation_defined.md U12 asks. Zero has two spellings, which every use reads alike. -/
structure InputAnswer where
  /-- whether the integer is the negative of its magnitude -/
  negative : Bool
  /-- the magnitude, at most 0xFFF -/
  magnitude : BitVec 12
  deriving DecidableEq, Repr, Inhabited

/-- FREE VALUE: the answers of the input source that nothing else fixes, by a running count of the answers drawn.
43_io_and_halt.md R170: "The value is a draw: the core does not choose it, and two INPUT instructions draw
independently." It has no body, so no proof can see a value of it (log entry 3). -/
opaque Config.inputDraw : Nat → InputAnswer

/-- FREE VALUE: the comment marker of the assembler, which the source never names
(30_encoding.md R96, decision D23, 93_implementation_defined.md U5; log entry 14). -/
opaque Config.commentMarker : Char

end Sys2Proof
end

