-- ==== Sys2Proof/Syntax.lean ====
section
/-! DEFINITION. The instructions: one constructor per row of spec/opcode_table.json (30_encoding.md R84). Each keeps
all 12 operand bits, because Decode copies them to MAR for every word, those without a use for them included
(40_instruction_cycle.md R132, 30_encoding.md R88). -/

namespace Sys2Proof

/-- The sixteen rows of the opcode map (30_encoding.md R84), in its order. -/
inductive Instr where
  /-- JNS X: store the return address at X, continue at X + 1 (44_control_transfer.md R180). -/
  | jns (x : Operand)
  /-- LOAD X: the word at X to AC (41_data_transfer.md R150). -/
  | load (x : Operand)
  /-- STORE X: AC to the word at X (41_data_transfer.md R151). -/
  | store (x : Operand)
  /-- ADD X: add the word at X to AC (42_arithmetic.md R161). -/
  | add (x : Operand)
  /-- SUBT X: subtract the word at X from AC (42_arithmetic.md R162). -/
  | subt (x : Operand)
  /-- INPUT: one integer from the host to AC; the operand is ignored (43_io_and_halt.md R170). -/
  | input (x : Operand)
  /-- OUTPUT: AC to OutReg and the output sequence; the operand is ignored (43_io_and_halt.md R171). -/
  | output (x : Operand)
  /-- HALT: set the halted flag; the operand is ignored (43_io_and_halt.md R172). -/
  | halt (x : Operand)
  /-- SKIPCOND C: skip the next instruction on a condition on AC (44_control_transfer.md R181). -/
  | skipcond (c : Operand)
  /-- JUMP X: continue at X (44_control_transfer.md R182). -/
  | jump (x : Operand)
  /-- CLEAR: AC to zero; the operand is ignored (41_data_transfer.md R152). -/
  | clear (x : Operand)
  /-- ADDI X: add the word whose address is the word at X to AC (42_arithmetic.md R163). -/
  | addi (x : Operand)
  /-- JUMPI X: continue at the address held in the word at X (44_control_transfer.md R183). -/
  | jumpi (x : Operand)
  /-- A word with opcode 0xD, which is not in the defined set (30_encoding.md R86). -/
  | undefinedD (x : Operand)
  /-- A word with opcode 0xE, which is not in the defined set (30_encoding.md R86). -/
  | undefinedE (x : Operand)
  /-- A word with opcode 0xF, which is not in the defined set (30_encoding.md R86). -/
  | undefinedF (x : Operand)
  deriving DecidableEq, Repr

/-- The 4-bit code of the instruction's row (30_encoding.md R84). -/
def Instr.opcode : Instr → Opcode
  | .jns _ => 0x0
  | .load _ => 0x1
  | .store _ => 0x2
  | .add _ => 0x3
  | .subt _ => 0x4
  | .input _ => 0x5
  | .output _ => 0x6
  | .halt _ => 0x7
  | .skipcond _ => 0x8
  | .jump _ => 0x9
  | .clear _ => 0xA
  | .addi _ => 0xB
  | .jumpi _ => 0xC
  | .undefinedD _ => 0xD
  | .undefinedE _ => 0xE
  | .undefinedF _ => 0xF

/-- The 12-bit operand field of the instruction (30_encoding.md R81, R82). -/
def Instr.operand : Instr → Operand
  | .jns x | .load x | .store x | .add x | .subt x | .input x | .output x | .halt x => x
  | .skipcond c => c
  | .jump x | .clear x | .addi x | .jumpi x | .undefinedD x | .undefinedE x | .undefinedF x => x

end Sys2Proof
end

