-- ==== Sys2Proof/WellFormed.lean ====
section
/-! DEFINITION. Which instructions the instruction set defines: a SKIPCOND with one of the three condition codes
(30_encoding.md R82, R87) and every other instruction of the 13 opcodes. The words with opcode 0xD to 0xF are no
instructions (R86). An ill-formed instruction still decodes and has its meaning: a reserved SKIPCOND condition is
refused by name, an undefined opcode raises UndecodableOpcode. -/

namespace Sys2Proof

/-- The legal condition fields of SKIPCOND (00_scope.md R7, `SKIPCOND_CODES`; 30_encoding.md R87). -/
def conditionCodes : List Operand := [0x000, 0x400, 0x800]

/-- Whether the instruction set defines the instruction (30_encoding.md R86, R87). -/
def Instr.wellFormed : Instr → Bool
  | .skipcond c => conditionCodes.contains c
  | .undefinedD _ | .undefinedE _ | .undefinedF _ => false
  | .jns _ | .load _ | .store _ | .add _ | .subt _ | .input _ | .output _ | .halt _ => true
  | .jump _ | .clear _ | .addi _ | .jumpi _ => true

end Sys2Proof
end

