-- ==== Sys2Proof/Decode.lean ====
section
/-! DEFINITION. The decoder, total on the 65536 words (30_encoding.md R84, R85), and the encoder, its inverse (R91). -/

namespace Sys2Proof

/-- `w[15:12]`, the opcode field (00_scope.md R8, 30_encoding.md R81). -/
def opcodeField (w : Word) : Opcode := w.extractLsb' 12 4

/-- `w[11:0]`, the operand field (00_scope.md R8, 30_encoding.md R81). -/
def operandField (w : Word) : Operand := w.extractLsb' 0 12

/-- `(opcode << 12) | operand` (30_encoding.md R81, R91): the opcode in the high bits. -/
def assembleWord (op : Opcode) (x : Operand) : Word := (op.setWidth 16 <<< 12) ||| x.setWidth 16

/-- The decode algorithm: nothing but the four opcode bits selects the instruction, and the 16 rows take in every
word (30_encoding.md R84, R85). -/
def decodeWord (w : Word) : Instr :=
  let x := operandField w
  match (opcodeField w).toNat with
  | 0x0 => .jns x
  | 0x1 => .load x
  | 0x2 => .store x
  | 0x3 => .add x
  | 0x4 => .subt x
  | 0x5 => .input x
  | 0x6 => .output x
  | 0x7 => .halt x
  | 0x8 => .skipcond x
  | 0x9 => .jump x
  | 0xA => .clear x
  | 0xB => .addi x
  | 0xC => .jumpi x
  | 0xD => .undefinedD x
  | 0xE => .undefinedE x
  | _ => .undefinedF x

/-- Why a list of words decodes to nothing. -/
inductive DecodeError where
  /-- There is no word to decode: every instruction is exactly one word (30_encoding.md R80). -/
  | noWord
  deriving DecidableEq, Repr

/-- Decoding a list of words: the first word's instruction and the words after it, since every instruction occupies
exactly one word (30_encoding.md R80). -/
def decode : List Word → Except DecodeError (Instr × List Word)
  | [] => .error .noWord
  | w :: rest => .ok (decodeWord w, rest)

/-- The word of an instruction (30_encoding.md R91). -/
def encodeWord (i : Instr) : Word := assembleWord i.opcode i.operand

/-- The words of an instruction: exactly one (30_encoding.md R80, R91). -/
def encode (i : Instr) : List Word := [encodeWord i]

/-- The instruction read from an instruction of `nbits` bits `w`, numbered as spec/opcode_table.json numbers them.
Every row has the 16 bits of one word (30_encoding.md R80), so any other width is no instruction of the table. -/
def decodeTableWord (nbits w : Nat) : Option Instr :=
  if nbits = 16 ∧ w < 65536 then
    match decode [BitVec.ofNat 16 w] with
    | .ok (i, _) => some i
    | .error _ => none
  else none

end Sys2Proof
end

