-- ==== Sys2Proof/Machine/State.lean ====
section
/-! DEFINITION. The state of the MARIE core (10_state.md R20 to R37), its two reset values (R45), and the reasons a
step can have no successor. Plain data only. -/

namespace Sys2Proof.Machine

/-- RUNSTATE, the run status (10_state.md R32). -/
inductive RunState where
  /-- no run started since power-on -/
  | idle
  /-- a run is in progress -/
  | running
  /-- the run ended by HALT -/
  | halted
  /-- the run ended by a fatal error -/
  | faulted
  deriving DecidableEq, Repr

/-- The two run modes, which share one loop (10_state.md R40, R43; 60_exceptions.md R220). -/
inductive RunMode where
  /-- loop silently to completion -/
  | continuous
  /-- wait for an acknowledgment after every Decode+Execute -/
  | singleStep
  deriving DecidableEq, Repr

/-- The closed set of fatal errors (60_exceptions.md R200), each with the argument FAULT keeps (10_state.md R33).
The arguments of the two memory errors are integers, because the host may hand the memory store any address and value
(60_exceptions.md R203). -/
inductive FatalError where
  /-- Decode found an opcode outside the defined set (60_exceptions.md R201). -/
  | undecodableOpcode (opcode : Opcode)
  /-- A memory access to an address of 4096 or more (60_exceptions.md R202). -/
  | addressOutOfBounds (addr : Nat)
  /-- A store of a value greater than 65535 (60_exceptions.md R203). -/
  | valueOverflow (value : Nat)
  deriving DecidableEq, Repr

/-- One listed word of memory: its address and its content. The addressable unit of this machine is the 16-bit word,
and there are no bytes (20_memory.md R50, R52, R55; log entry 1). -/
abbrev WordCell := Nat × Word

/-- M, the memory store, as its listed words: addresses strictly rising and below 4096, none listed with the value an
unlisted address reads as (`Memory.wf` in Machine/Ops.lean; log entry 1). -/
abbrev Memory := List WordCell

/-- The complete state of the core (10_state.md R20), and after it four fields of the host's side of the interface
(10_state.md R46; log entries 3 and 4). -/
structure State where
  /-- AC, the accumulator (10_state.md R21) -/
  ac : Word
  /-- MAR, the memory address register (10_state.md R22) -/
  mar : Word
  /-- MBR, the memory buffer register (10_state.md R23) -/
  mbr : Word
  /-- PC, the program counter (10_state.md R24) -/
  pc : Word
  /-- IR, the instruction register (10_state.md R25) -/
  ir : Word
  /-- InReg, the input register (10_state.md R26) -/
  inReg : Word
  /-- OutReg, the output register (10_state.md R27) -/
  outReg : Word
  /-- HALTED, the halted flag (10_state.md R30) -/
  halted : Bool
  /-- RUNSTATE, the run status (10_state.md R32) -/
  runState : RunState
  /-- FAULT, the fatal error of the current run (10_state.md R33) -/
  fault : Option FatalError
  /-- M, the memory store (10_state.md R35) -/
  mem : Memory
  /-- HEAD, the head marker (10_state.md R36) -/
  head : BitVec 12
  /-- OUT, the output sequence (10_state.md R37) -/
  out : List Word
  /-- the run's mode, an input of the run (10_state.md R40, R46) -/
  mode : RunMode
  /-- whether the core waits at the step gate (10_state.md R43) -/
  atGate : Bool
  /-- the answers of the input source that are already fixed, in the order INPUT receives them (10_state.md R41) -/
  inputs : List InputAnswer
  /-- how many free input values have been drawn -/
  draws : Nat
  deriving DecidableEq, Repr

/-- The stuck outcomes of `step`: the machine has no transition until the host acts. A fatal error of the spec is
NOT one of these: it is a next state (10_state.md R33, 60_exceptions.md R207). -/
inductive Fault where
  /-- Raised by `step` when RUNSTATE is not Running: instructions execute only while a run is in progress
  (10_state.md R32, 40_instruction_cycle.md R138). Safe: the machine does nothing there. -/
  | notRunning (status : RunState)
  /-- Raised by `step` when the core waits at the step gate for the host's acknowledgment (10_state.md R43,
  93_implementation_defined.md U11). Safe: the machine does nothing there. -/
  | waitingAtStepGate
  deriving DecidableEq, Repr

/-- The refusals: no meaning is given. -/
inductive Refusal where
  /-- Raised by a refused arm of `exec` for an instruction without a meaning. Safe. No arm of this model raises it. -/
  | notModelled (mnemonic : String)
  /-- Raised by SKIPCOND with a condition field other than 0x000, 0x400, 0x800: reserved, no behaviour given
  (30_encoding.md R87, 93_implementation_defined.md U1, `SkipcondReservedCondition`). Safe. -/
  | skipcondReservedCondition (condition : Operand)
  deriving DecidableEq, Repr

/-- The state at power-on: memory, HEAD and OUT as the source gives them, the registers at the spec's zero, no run in
progress (10_state.md R45, 70_reset_and_hazards.md R230). -/
def State.powerOn : State where
  ac := 0
  mar := 0
  mbr := 0
  pc := 0
  ir := 0
  inReg := 0
  outReg := 0
  halted := false
  runState := .idle
  fault := none
  mem := []
  head := 0
  out := []
  mode := .continuous
  atGate := false
  inputs := []
  draws := 0

/-- The machine right after reset: the run-start reset over the memory of power-on (10_state.md R45,
70_reset_and_hazards.md R231; log entry 2). Execution begins at address 0 (R232). -/
def State.reset : State where
  ac := 0
  mar := 0
  mbr := 0
  pc := 0
  ir := 0
  inReg := 0
  outReg := 0
  halted := false
  runState := .running
  fault := none
  mem := []
  head := 0
  out := []
  mode := .continuous
  atGate := false
  inputs := []
  draws := 0

end Sys2Proof.Machine
end

