-- ==== Sys2Proof/Machine/Ops.lean ====
section
/-! DEFINITION. The named operations over memory and registers: the raw memory, the register writes, the two memory
primitives (20_memory.md R53, R54), `raise` (00_scope.md R12), Fetch and the end of a cycle
(40_instruction_cycle.md R130, R131). -/

namespace Sys2Proof.Machine

/-- The result of an instruction or of a cycle. -/
abbrev Result := Host.Outcome State Fault Refusal

/-! ### Raw memory: `M[a]` (00_scope.md R10, 10_state.md R35) -/

/-- What a word reads as that nothing has written: 0 (10_state.md R35, "all initialized to 0"; 20_memory.md R53,
"0 if never written"). -/
def Memory.unlisted : Word := 0

/-- `M[a]`, the content of word `a`, with no bounds check (00_scope.md R10). -/
def Memory.read : Memory → Nat → Word
  | [], _ => Memory.unlisted
  | (k, v) :: rest, a => if k = a then v else Memory.read rest a

/-- `M[a] <- v`, with no bounds check. Keeps the canonical form: the entry stands in address order, and writing what
an unlisted word reads as removes it. -/
def Memory.write : Memory → Nat → Word → Memory
  | [], a, v => if v = Memory.unlisted then [] else [(a, v)]
  | (k, u) :: rest, a, v =>
    if a < k then
      if v = Memory.unlisted then (k, u) :: rest else (a, v) :: (k, u) :: rest
    else if a = k then
      if v = Memory.unlisted then rest else (a, v) :: rest
    else (k, u) :: Memory.write rest a v

/-- The canonical form: addresses strictly rising, each below 4096 (10_state.md R35), none listed with the value an
unlisted word reads as. -/
abbrev Memory.wf (m : Memory) : Prop :=
  List.Pairwise (fun c d : WordCell => c.1 < d.1) m ∧ ∀ c ∈ m, c.1 < Config.memWords ∧ c.2 ≠ Memory.unlisted

/-! ### Register writes (`NAME <- v`, 00_scope.md R10) -/

/-- `AC <- v`. -/
def State.setAc (s : State) (v : Word) : State := { s with ac := v }

/-- `MAR <- v`. -/
def State.setMar (s : State) (v : Word) : State := { s with mar := v }

/-- `MBR <- v`. -/
def State.setMbr (s : State) (v : Word) : State := { s with mbr := v }

/-- `PC <- v`. -/
def State.setPc (s : State) (v : Word) : State := { s with pc := v }

/-- `IR <- v`. -/
def State.setIr (s : State) (v : Word) : State := { s with ir := v }

/-- `InReg <- v`. -/
def State.setInReg (s : State) (v : Word) : State := { s with inReg := v }

/-- `OutReg <- v`. -/
def State.setOutReg (s : State) (v : Word) : State := { s with outReg := v }

/-- `OUT <- OUT ++ [v]`. -/
def State.emit (s : State) (v : Word) : State := { s with out := s.out ++ [v] }

/-- `HALTED <- 1`. -/
def State.setHalted (s : State) : State := { s with halted := true }

/-- `RUNSTATE <- r`. -/
def State.setRunState (s : State) (r : RunState) : State := { s with runState := r }

/-- The core begins to wait at the step gate (10_state.md R43). -/
def State.reachGate (s : State) : State := { s with atGate := true }

/-- The effect of a successful `MemWrite`: `M[addr] <- v; HEAD <- max(HEAD, addr)` (20_memory.md R54). -/
def State.writeWord (s : State) (addr : Nat) (v : Word) : State :=
  { s with
    mem := s.mem.write addr v
    head := if s.head.toNat < addr then BitVec.ofNat 12 addr else s.head }

/-- What `raise` leaves: `FAULT <- e; RUNSTATE <- Faulted` (00_scope.md R12). Nothing else changes: there is no
vector, no saved PC or status and no mode (60_exceptions.md R206). -/
def State.recordFault (s : State) (e : FatalError) : State :=
  { s with fault := some e, runState := .faulted }

/-! ### Taking a fatal error, and the memory primitives -/

/-- `raise e`: the cycle ends here, with the state the micro-operations before it have left
(00_scope.md R12, 60_exceptions.md R206, R207). There is no handler and no return (R209). -/
def raise (e : FatalError) (s : State) : Result := .next (s.recordFault e)

/-- `MemRead(addr, 1)`, the source's `load(address)` (20_memory.md R53). -/
def memRead (m : Memory) (addr : Nat) : Except FatalError Word :=
  if addr ≥ Config.memWords then .error (.addressOutOfBounds addr) else .ok (m.read addr)

/-- `MemWrite(addr, 1, v)`, the source's `store(value, address)`; the address is tested first (20_memory.md R54). -/
def memWrite (s : State) (addr : Nat) (v : Nat) : Except FatalError State :=
  if addr ≥ Config.memWords then .error (.addressOutOfBounds addr)
  else if v > Config.maxWord then .error (.valueOverflow v)
  else .ok (s.writeWord addr (BitVec.ofNat 16 v))

/-- `w <- MemRead(addr, 1)`, then the rest of the instruction. -/
def withRead (s : State) (addr : Word) (rest : Word → Result) : Result :=
  match memRead s.mem addr.toNat with
  | .error e => raise e s
  | .ok w => rest w

/-- `MemWrite(addr, 1, v)`, then the rest of the instruction. -/
def withWrite (s : State) (addr v : Word) (rest : State → Result) : Result :=
  match memWrite s addr.toNat v.toNat with
  | .error e => raise e s
  | .ok s' => rest s'

/-- The numeric cause codes the spec assigns (60_exceptions.md R204, its decision D9). -/
def faultCode : Option FatalError → Nat
  | none => 0
  | some (.undecodableOpcode _) => 1
  | some (.addressOutOfBounds _) => 2
  | some (.valueOverflow _) => 3

/-! ### The instruction cycle around Decode+Execute -/

/-- Fetch, then the rest of the cycle: `MAR <- PC; MBR <- MemRead(MAR, 1); IR <- MBR; PC <- PC + 1 mod 2^16`
(40_instruction_cycle.md R131). A load that raises has MAR written and nothing else (R140). -/
def fetch (s : State) (rest : State → Result) : Result :=
  let s := s.setMar s.pc
  withRead s s.mar fun w =>
    let s := s.setMbr w
    let s := s.setIr s.mbr
    rest (s.setPc (s.pc + 1))

/-- What the run loop does after Execute: a raise has left the loop; else a set halted flag ends the run; else the
step gate in single-step mode (40_instruction_cycle.md R130). -/
def finishCycle (s : State) : State :=
  if s.runState = .faulted then s
  else if s.halted then s.setRunState .halted
  else if s.mode = .singleStep then s.reachGate
  else s

/-- `finishCycle` on a cycle that has a successor state. -/
def endCycle : Result → Result
  | .next s => .next (finishCycle s)
  | .fault r => .fault r
  | .refused r => .refused r

/-- One turn of the run loop, given what Decode+Execute does with the fetched word: instructions execute only while
RUNSTATE is Running (10_state.md R32, 40_instruction_cycle.md R130, R138) and not while the core waits at the step gate
(10_state.md R43). -/
def runCycle (s : State) (decodeExecute : State → Result) : Result :=
  if s.runState = .running then
    if s.atGate then .fault .waitingAtStepGate
    else fetch s fun s' => endCycle (decodeExecute s')
  else .fault (.notRunning s.runState)

/-- `s` with the word `w` where the next Fetch reads it, and everything else that the next turn of the run loop needs
to fetch it: a run in progress, no wait at the gate, and a PC that can be fetched from (log entry 2). -/
def placeNextWord (s : State) (w : Word) : State :=
  let pc : Word := if s.pc.toNat < Config.memWords then s.pc else 0
  { s with pc := pc, mem := s.mem.write pc.toNat w, runState := .running, atGate := false }

end Sys2Proof.Machine
end

