-- ==== Sys2Proof/Machine/Operands.lean ====
section
/-! DEFINITION. Operand forms: the widening of the operand field, the two readings of a word as a number, the operand
words an instruction reaches (20_memory.md R60), and the value an INPUT receives. -/

namespace Sys2Proof.Machine

/-- `zext_16(v)`: widened to 16 bits with zero high bits (00_scope.md R9). -/
def zext16 (x : Operand) : Word := x.setWidth 16

/-- `signed16(v)`: the two's-complement reading of a word (00_scope.md R9). -/
def signed16 (v : Word) : Int := if v.toNat < 32768 then (v.toNat : Int) else (v.toNat : Int) - 65536

/-- Decode's register write, `MAR <- zext_16(IR[11:0])`, for every instruction whatever its opcode
(40_instruction_cycle.md R132, 30_encoding.md R83). -/
def latchOperand (s : State) (x : Operand) : State := s.setMar (zext16 x)

/-- The direct operand word through MBR: `MBR <- MemRead(MAR, 1)`, then the rest (42_arithmetic.md R161, R162). -/
def withDirectOperand (s : State) (rest : State → Result) : Result :=
  withRead s s.mar fun w => rest (s.setMbr w)

/-- The indirect operand word through MBR: `MBR <- MemRead(MAR, 1); MAR <- MBR; MBR <- MemRead(MAR, 1)`, then the rest;
all 16 bits of the pointer go to MAR (42_arithmetic.md R163). -/
def withIndirectOperand (s : State) (rest : State → Result) : Result :=
  withDirectOperand s fun s =>
    withDirectOperand (s.setMar s.mbr) rest

/-- The integer of an answer, from -4095 to 4095 (43_io_and_halt.md R170). -/
def inputValue (v : InputAnswer) : Int := if v.negative then -(v.magnitude.toNat : Int) else (v.magnitude.toNat : Int)

/-- `v mod 2^16`, as INPUT delivers an answer (43_io_and_halt.md R170). -/
def inputWord (v : InputAnswer) : Word := BitVec.ofInt 16 (inputValue v)

/-- The answer the next `InputRequest()` receives: the first that is already fixed, or a free value where none is
(00_scope.md R13, 43_io_and_halt.md R170; log entry 3). -/
def nextAnswer (s : State) : InputAnswer :=
  match s.inputs with
  | [] => Config.inputDraw s.draws
  | v :: _ => v

/-- The state after that request: the answer is used up. -/
def takeAnswer (s : State) : State :=
  match s.inputs with
  | [] => { s with draws := s.draws + 1 }
  | _ :: rest => { s with inputs := rest }

end Sys2Proof.Machine
end

