-- ==== Sys2Proof/Machine/Flags.lean ====
section
/-! DEFINITION. Tests and the ALU. The machine has no condition codes: the only flag is HALTED, and SKIPCOND tests AC
itself (10_state.md R30, R31). The ALU adds and subtracts modulo 2^16 and records nothing else (42_arithmetic.md R160,
the spec's decision D1, log entry 6). -/

namespace Sys2Proof.Machine

/-- `(a + b) mod 2^16` (42_arithmetic.md R160, R161). -/
def aluAdd (a b : Word) : Word := BitVec.ofNat 16 (a.toNat + b.toNat)

/-- `(a - b) mod 2^16` (42_arithmetic.md R160, R162). -/
def aluSub (a b : Word) : Word := BitVec.ofInt 16 ((a.toNat : Int) - (b.toNat : Int))

/-- Whether SKIPCOND skips, by the condition in MAR (all 12 bits of it), or none where the condition is reserved
(44_control_transfer.md R181, 30_encoding.md R87). The inequalities read AC as a two's-complement number (the spec's
decision D2, log entry 7). -/
def skipTest (condition ac : Word) : Option Bool :=
  if condition = 0x000 then some (decide (signed16 ac < 0))
  else if condition = 0x400 then some (decide (ac = 0))
  else if condition = 0x800 then some (decide (signed16 ac > 0))
  else none

end Sys2Proof.Machine
end

