-- ==== Sys2Proof/Machine/Arithmetic.lean ====
section
/-! DEFINITION. Decode+Execute of ADD, SUBT and ADDI (42_arithmetic.md). -/

namespace Sys2Proof.Machine

/-- ADD: `MBR <- MemRead(MAR, 1); AC <- (AC + MBR) mod 2^16` (42_arithmetic.md R161). -/
def execAdd (x : Operand) (s : State) : Result :=
  withDirectOperand (latchOperand s x) fun s => .next (s.setAc (aluAdd s.ac s.mbr))

/-- SUBT: `MBR <- MemRead(MAR, 1); AC <- (AC - MBR) mod 2^16` (42_arithmetic.md R162). -/
def execSubt (x : Operand) (s : State) : Result :=
  withDirectOperand (latchOperand s x) fun s => .next (s.setAc (aluSub s.ac s.mbr))

/-- ADDI: `MBR <- MemRead(MAR, 1); MAR <- MBR; MBR <- MemRead(MAR, 1); AC <- (AC + MBR) mod 2^16`; the second load
raises AddressOutOfBounds for a pointer of 4096 or more (42_arithmetic.md R163). -/
def execAddi (x : Operand) (s : State) : Result :=
  withIndirectOperand (latchOperand s x) fun s => .next (s.setAc (aluAdd s.ac s.mbr))

end Sys2Proof.Machine
end

