-- ==== Sys2Proof/Machine/ControlTransfer.lean ====
section
/-! DEFINITION. Decode+Execute of JNS, SKIPCOND, JUMP and JUMPI (44_control_transfer.md), and of the words with an
undefined opcode (30_encoding.md R86). PC is the address after the instruction's own when a meaning begins. -/

namespace Sys2Proof.Machine

/-- JNS: `MemWrite(MAR, 1, PC); PC <- MAR + 1`; the stored value is PC after Fetch (44_control_transfer.md R180,
90_conflicts.md C1, log entry 8). -/
def execJns (x : Operand) (s : State) : Result :=
  let s := latchOperand s x
  withWrite s s.mar s.pc fun s => .next (s.setPc (s.mar + 1))

/-- SKIPCOND: one more `PC <- PC + 1` when the condition MAR selects holds; a reserved condition is refused by name
(44_control_transfer.md R181, 30_encoding.md R87). -/
def execSkipcond (c : Operand) (s : State) : Result :=
  let s := latchOperand s c
  match skipTest s.mar s.ac with
  | some true => .next (s.setPc (s.pc + 1))
  | some false => .next s
  | none => .refused (.skipcondReservedCondition c)

/-- JUMP: `PC <- MAR` (44_control_transfer.md R182). -/
def execJump (x : Operand) (s : State) : Result :=
  let s := latchOperand s x
  .next (s.setPc s.mar)

/-- JUMPI: `PC <- MemRead(MAR, 1)`, all 16 bits of the word; MBR is not written (44_control_transfer.md R183). -/
def execJumpi (x : Operand) (s : State) : Result :=
  let s := latchOperand s x
  withRead s s.mar fun w => .next (s.setPc w)

/-- A word with opcode 0xD: `raise UndecodableOpcode(0xD)`, after Decode has written MAR (30_encoding.md R85, R86;
60_exceptions.md R201). -/
def execUndefinedD (x : Operand) (s : State) : Result := raise (.undecodableOpcode 0xD) (latchOperand s x)

/-- A word with opcode 0xE: `raise UndecodableOpcode(0xE)` (30_encoding.md R85, R86; 60_exceptions.md R201). -/
def execUndefinedE (x : Operand) (s : State) : Result := raise (.undecodableOpcode 0xE) (latchOperand s x)

/-- A word with opcode 0xF: `raise UndecodableOpcode(0xF)` (30_encoding.md R85, R86; 60_exceptions.md R201). -/
def execUndefinedF (x : Operand) (s : State) : Result := raise (.undecodableOpcode 0xF) (latchOperand s x)

end Sys2Proof.Machine
end

