-- ==== Sys2Proof/Machine/DataTransfer.lean ====
section
/-! DEFINITION. Decode+Execute of LOAD, STORE and CLEAR (41_data_transfer.md). Each meaning starts from the state after
Fetch and begins with Decode's write of MAR (40_instruction_cycle.md R132). -/

namespace Sys2Proof.Machine

/-- LOAD: `AC <- MemRead(MAR, 1)`; MBR keeps the instruction word (41_data_transfer.md R150). -/
def execLoad (x : Operand) (s : State) : Result :=
  let s := latchOperand s x
  withRead s s.mar fun w => .next (s.setAc w)

/-- STORE: `MemWrite(MAR, 1, AC)` (41_data_transfer.md R151). -/
def execStore (x : Operand) (s : State) : Result :=
  let s := latchOperand s x
  withWrite s s.mar s.ac fun s => .next s

/-- CLEAR: `AC <- 0` (41_data_transfer.md R152). -/
def execClear (x : Operand) (s : State) : Result :=
  let s := latchOperand s x
  .next (s.setAc 0)

end Sys2Proof.Machine
end

