-- ==== Sys2Proof/Machine/InputOutput.lean ====
section
/-! DEFINITION. Decode+Execute of INPUT, OUTPUT and HALT (43_io_and_halt.md). -/

namespace Sys2Proof.Machine

/-- INPUT: `v <- InputRequest(); InReg <- v mod 2^16; AC <- v mod 2^16` (43_io_and_halt.md R170; InReg is the spec's
decision D8, log entry 9). The host's duty to answer is taken as done (R170, decision D19, log entry 3). -/
def execInput (x : Operand) (s : State) : Result :=
  let s := latchOperand s x
  let w := inputWord (nextAnswer s)
  .next (((takeAnswer s).setInReg w).setAc w)

/-- OUTPUT: `OutReg <- AC; OUT <- OUT ++ [OutReg]` (43_io_and_halt.md R171). -/
def execOutput (x : Operand) (s : State) : Result :=
  let s := latchOperand s x
  let s := s.setOutReg s.ac
  .next (s.emit s.outReg)

/-- HALT: `HALTED <- 1`; the run loop then ends the run (43_io_and_halt.md R172, `finishCycle`). -/
def execHalt (x : Operand) (s : State) : Result :=
  .next (latchOperand s x).setHalted

end Sys2Proof.Machine
end

