-- ==== Sys2Proof/Machine/Dispatch.lean ====
section
/-! DEFINITION. Decode+Execute: the dispatch over the sixteen values of the opcode field
(40_instruction_cycle.md R132, R133). -/

namespace Sys2Proof.Machine

def exec (i : Instr) (s : State) : Host.Outcome State Fault Refusal :=
  match i with
  | .jns x => Sys2Proof.Machine.execJns x s
  | .load x => Sys2Proof.Machine.execLoad x s
  | .store x => Sys2Proof.Machine.execStore x s
  | .add x => Sys2Proof.Machine.execAdd x s
  | .subt x => Sys2Proof.Machine.execSubt x s
  | .input x => Sys2Proof.Machine.execInput x s
  | .output x => Sys2Proof.Machine.execOutput x s
  | .halt x => Sys2Proof.Machine.execHalt x s
  | .skipcond c => Sys2Proof.Machine.execSkipcond c s
  | .jump x => Sys2Proof.Machine.execJump x s
  | .clear x => Sys2Proof.Machine.execClear x s
  | .addi x => Sys2Proof.Machine.execAddi x s
  | .jumpi x => Sys2Proof.Machine.execJumpi x s
  | .undefinedD x => Sys2Proof.Machine.execUndefinedD x s
  | .undefinedE x => Sys2Proof.Machine.execUndefinedE x s
  | .undefinedF x => Sys2Proof.Machine.execUndefinedF x s

end Sys2Proof.Machine
end

