-- ==== Sys2Proof/Machine/Step.lean ====
section
/-! DEFINITION. One step of the core: one instruction cycle, Fetch, Decode, Execute (40_instruction_cycle.md R130,
R134). -/

namespace Sys2Proof.Machine

/-- One instruction cycle (40_instruction_cycle.md R130 to R133): the fetched word, in IR, is decoded and executed. A
fatal error is a next state, with FAULT and RUNSTATE set; a machine that is not running, or waits at the step gate, has
no transition. -/
def step (s : State) : Host.Outcome State Fault Refusal :=
  runCycle s fun s' => exec (decodeWord s'.ir) s'

/-- `s` with the instruction `w` where `step` fetches its next instruction. Every instruction is one word of 16 bits
(30_encoding.md R80), so `nbits` adds nothing. -/
def State.withFetchWord (s : State) (_nbits w : Nat) : State := placeNextWord s (BitVec.ofNat 16 w)

end Sys2Proof.Machine
end

