-- ==== Sys2Proof/Machine/HostOps.lean ====
section
/-! DEFINITION. The host's side of the six interfaces (10_state.md R38 to R44): host memory access, run start, input,
step gate and outcome. These are the host's moves; `step` performs none of them. A move the host does not have
(70_reset_and_hazards.md R235) answers `noSuchMove`. -/

namespace Sys2Proof.Machine

/-- What a host move answers. -/
inductive HostOutcome (α : Type) where
  /-- The move took effect, with its answer. -/
  | done (s : State) (answer : α)
  /-- The memory store reported an error to the host; this is no fault of a run (60_exceptions.md R203). -/
  | failed (s : State) (e : FatalError)
  /-- The host has no such move now (93_implementation_defined.md U4). Safe: nothing is said of it. -/
  | noSuchMove
  deriving DecidableEq, Repr

/-- The host acts on memory and starts a run only while RUNSTATE is not Running (10_state.md R39, R40; the spec's
decision D15). -/
def whenNotRunning {α : Type} (s : State) (move : HostOutcome α) : HostOutcome α :=
  if s.runState = .running then .noSuchMove else move

/-- The host's `load(address)` (10_state.md R39, 20_memory.md R53). -/
def hostLoad (s : State) (addr : Nat) : HostOutcome Word :=
  whenNotRunning s <|
    match memRead s.mem addr with
    | .error e => .failed s e
    | .ok w => .done s w

/-- The host's `store(value, address)` (10_state.md R39, 20_memory.md R54). -/
def hostStore (s : State) (value addr : Nat) : HostOutcome Unit :=
  whenNotRunning s <|
    match memWrite s addr value with
    | .error e => .failed s e
    | .ok s' => .done s' ()

/-- The words of the addresses 0 to HEAD, in address order (20_memory.md R61). -/
def serializeRange (s : State) : List Word := (List.range (s.head.toNat + 1)).map s.mem.read

/-- The host's `serializeRange()`, which changes no state (10_state.md R39, 20_memory.md R61). -/
def hostSerializeRange (s : State) : HostOutcome (List Word) := whenNotRunning s (.done s (serializeRange s))

/-- Storing values one after another from an address, stopping at the first error (20_memory.md R63). -/
def storeFrom : List Nat → Nat → State → HostOutcome Unit
  | [], _, s => .done s ()
  | v :: rest, addr, s =>
    match memWrite s addr v with
    | .error e => .failed s e
    | .ok s' => storeFrom rest (addr + 1) s'

/-- The host's `loadRange(words)`: HEAD is reset to 0 and the words are stored from address 0; nothing is cleared
(20_memory.md R63, the spec's decisions D22 and D32, log entry 13). -/
def hostLoadRange (s : State) (values : List Nat) : HostOutcome Unit :=
  whenNotRunning s (storeFrom values 0 { s with head := 0 })

/-- The run-start reset: the registers to zero, OUT emptied, HALTED and FAULT cleared, RUNSTATE Running; M and HEAD
untouched (70_reset_and_hazards.md R231, log entry 12). -/
def runStart (s : State) (mode : RunMode) : State :=
  { s with
    ac := 0
    mar := 0
    mbr := 0
    pc := 0
    ir := 0
    inReg := 0
    outReg := 0
    out := []
    halted := false
    fault := none
    runState := .running
    mode := mode
    atGate := false }

/-- The host starts a run in a mode of its choice (10_state.md R40). -/
def hostStartRun (s : State) (mode : RunMode) : HostOutcome Unit := whenNotRunning s (.done (runStart s mode) ())

/-- Whether the core is blocked in INPUT: a run in progress, no wait at the step gate, and the instruction of the cycle
at PC is an INPUT that no answer has reached. The cycle is one transition, so the model has the wait, which changes no
state, before it (40_instruction_cycle.md R134, 43_io_and_halt.md R170; log entry 3). -/
def blockedInInput (s : State) : Bool :=
  s.runState = .running ∧ s.atGate = false ∧ s.pc.toNat < Config.memWords ∧
    (decodeWord (s.mem.read s.pc.toNat)).opcode = 0x5 ∧ s.inputs = []

/-- The host answers the request of an INPUT (10_state.md R41): only where the core is blocked in one, and only once
(70_reset_and_hazards.md R235; log entry 3). -/
def hostAnswer (s : State) (v : InputAnswer) : HostOutcome Unit :=
  if blockedInInput s then .done { s with inputs := [v] } () else .noSuchMove

/-- The host acknowledges the step gate, where the core waits at it (10_state.md R43). The acknowledgment carries no
data (60_exceptions.md R220). -/
def hostAcknowledge (s : State) : HostOutcome Unit :=
  if s.atGate then .done { s with atGate := false } () else .noSuchMove

/-- The host reads the full register and memory state, which changes nothing of it: what the step gate exposes
(10_state.md R43), and everything while no run is in progress, the registers among it (70_reset_and_hazards.md R235). -/
def hostExamine (s : State) : HostOutcome State := if s.atGate ∨ s.runState ≠ .running then .done s s else .noSuchMove

/-- How the machine stands while no run is in progress (10_state.md R44, 70_reset_and_hazards.md R235). -/
structure RunOutcome where
  /-- RUNSTATE: Halted or Faulted after a run, Idle before the first -/
  status : RunState
  /-- FAULT -/
  fault : Option FatalError
  /-- OUT -/
  out : List Word
  deriving DecidableEq, Repr

/-- The host reads RUNSTATE, FAULT and OUT while no run is in progress: the outcome of a run once it has ended
(10_state.md R44), and the Idle machine before (70_reset_and_hazards.md R235). -/
def hostOutcome (s : State) : HostOutcome RunOutcome := whenNotRunning s (.done s ⟨s.runState, s.fault, s.out⟩)

end Sys2Proof.Machine
end

