-- ==== Sys2Proof/Machine/Image.lean ====
section
/-! DEFINITION. The persisted program image as text (20_memory.md R62): one word a line, four upper-case hexadecimal
digits, most significant first. Text is a list of characters. -/

namespace Sys2Proof.Machine

/-- The text cut at every occurrence of a character. -/
def splitOnChar (sep : Char) : List Char → List (List Char)
  | [] => [[]]
  | c :: cs =>
    match splitOnChar sep cs with
    | [] => [[c]]
    | part :: parts => if c = sep then [] :: part :: parts else (c :: part) :: parts

/-- The value of a digit: `0` to `9`, then `A` to `F` in upper case. -/
def digitValue (c : Char) : Option Nat :=
  if '0'.toNat ≤ c.toNat ∧ c.toNat ≤ '9'.toNat then some (c.toNat - '0'.toNat)
  else if 'A'.toNat ≤ c.toNat ∧ c.toNat ≤ 'F'.toNat then some (c.toNat - 'A'.toNat + 10)
  else none

/-- The digits of a number in base `radix`, most significant first, read onto what stands before them. -/
def digitsValue (radix : Nat) : List Char → Nat → Option Nat
  | [], before => some before
  | c :: cs, before =>
    match digitValue c with
    | some d => if d < radix then digitsValue radix cs (before * radix + d) else none
    | none => none

/-- A number written with one or more digits of the base and nothing else (30_encoding.md R114). -/
def parseNumber (radix : Nat) (token : List Char) : Option Nat :=
  if token.isEmpty then none else digitsValue radix token 0

/-- The upper-case hexadecimal digit of a value below 16. -/
def hexDigit (d : BitVec 4) : Char :=
  if d.toNat < 10 then Char.ofNat ('0'.toNat + d.toNat) else Char.ofNat ('A'.toNat + (d.toNat - 10))

/-- A word as exactly four characters, most significant digit first, zero-padded (20_memory.md R55, R62). -/
def wordText (w : Word) : List Char :=
  [hexDigit (w.extractLsb' 12 4), hexDigit (w.extractLsb' 8 4), hexDigit (w.extractLsb' 4 4),
    hexDigit (w.extractLsb' 0 4)]

/-- A line of the image read back: exactly four digits. -/
def readWordText (line : List Char) : Option Word :=
  if line.length = 4 then (parseNumber 16 line).map (BitVec.ofNat 16) else none

/-- The lines of the image of a memory store: line k is the word at address k, up to HEAD, with no header and no
checksum (20_memory.md R61, R62). -/
def imageLines (s : State) : List (List Char) := (serializeRange s).map wordText

/-- The image as newline-separated text (20_memory.md R62). DESIGN CHOICE: no newline stands after the last word; how the
file is terminated is out of the source's scope (log entry 22). -/
def imageText (s : State) : List Char := List.intercalate ['\n'] (imageLines s)

/-- The words of an image text, none where a line is not four digits. DESIGN CHOICE: so none of a text that ends with a
newline, as the model writes none there (20_memory.md R62 leaves the termination open; log entry 22). -/
def readImage (text : List Char) : Option (List Word) := (splitOnChar '\n' text).mapM readWordText

end Sys2Proof.Machine
end

