-- ==== Sys2Proof/Machine/Assembler.lean ====
section
/-! DEFINITION. The two-pass assembler (30_encoding.md Part B, R95 to R121), software around the core
(00_scope.md R5). Only the admitted subset of source lines has a meaning; every other line is refused by the model's own
`outsideAdmittedSubset` (R112, log entry 14). Source text is a list of characters. -/

namespace Sys2Proof.Machine

/-- The assembly errors (30_encoding.md R109) and the two the model adds for a failed assembly. None of them is ever
recorded in FAULT (60_exceptions.md R213). -/
inductive AsmErrorKind where
  /-- more than one comma, or an empty label (R98); or one label on two lines (R113, the spec's decision D25) -/
  | addressing
  /-- no keyword on the line outside the label part (R99) -/
  | keywordMissing
  /-- the token after HEX or DEC does not parse in that base (R103) -/
  | integerExpected
  /-- an operand token that is no declared label and no condition code (R105) -/
  | skipcondInvalid
  /-- a refusal of the model: a line to which the source gives no one reading (R112). Safe. -/
  | outsideAdmittedSubset
  /-- the memory store rejected the line's word: a program of more than 4096 lines (R115, decision D28) -/
  | storeFailed (e : FatalError)
  deriving DecidableEq, Repr

/-- A failed assembly: the first error and the 1-indexed number of its line, blank lines counted (R97, R108, R109). -/
structure AsmError where
  /-- what went wrong -/
  kind : AsmErrorKind
  /-- the line number in the source -/
  line : Nat
  deriving DecidableEq, Repr

/-- A keyword: a mnemonic with its opcode, or a literal marker with its base (R102, R103). -/
inductive Keyword where
  /-- one of the 13 mnemonics -/
  | mnemonic (op : Opcode)
  /-- HEX or DEC -/
  | marker (radix : Nat)
  deriving DecidableEq, Repr

/-- The fixed keyword set, 15 members (R102), with the opcodes of R84. -/
def keywordTable : List (List Char × Keyword) :=
  [(['J', 'N', 'S'], .mnemonic 0x0), (['L', 'O', 'A', 'D'], .mnemonic 0x1), (['S', 'T', 'O', 'R', 'E'], .mnemonic 0x2),
    (['A', 'D', 'D'], .mnemonic 0x3), (['S', 'U', 'B', 'T'], .mnemonic 0x4), (['I', 'N', 'P', 'U', 'T'], .mnemonic 0x5),
    (['O', 'U', 'T', 'P', 'U', 'T'], .mnemonic 0x6), (['H', 'A', 'L', 'T'], .mnemonic 0x7)] ++
  [(['S', 'K', 'I', 'P', 'C', 'O', 'N', 'D'], .mnemonic 0x8), (['J', 'U', 'M', 'P'], .mnemonic 0x9),
    (['C', 'L', 'E', 'A', 'R'], .mnemonic 0xA), (['A', 'D', 'D', 'I'], .mnemonic 0xB),
    (['J', 'U', 'M', 'P', 'I'], .mnemonic 0xC), (['H', 'E', 'X'], .marker 16), (['D', 'E', 'C'], .marker 10)]

/-- The keyword a piece of text is, if it is exactly one. -/
def keywordOf (text : List Char) : Option Keyword := keywordTable.lookup text

/-- Whether a text begins with a keyword. -/
def beginsWithKeyword (text : List Char) : Bool := keywordTable.any fun k => k.1.isPrefixOf text

/-- Whether a keyword stands anywhere in a text. -/
def containsKeyword (text : List Char) : Bool := text.tails.any beginsWithKeyword

/-- The text without white space at its two ends. -/
def trim (text : List Char) : List Char :=
  ((text.dropWhile Char.isWhitespace).reverse.dropWhile Char.isWhitespace).reverse

/-- Preprocessing of a line: upper-cased, trimmed, cut at the comment marker (R96). DESIGN CHOICE: the rule says only
"upper-cased", and here the letters `a` to `z` alone are upper-cased, so that labels with other letters keep their case
(log entry 19). -/
def preprocess (marker : Char) (line : List Char) : List Char :=
  (trim (line.map Char.toUpper)).takeWhile (· ≠ marker)

/-- The pieces of a text between white space. DESIGN CHOICE: a tab or a carriage return separates tokens as a space
does, where R112 (c) says "at least one space" (log entry 20). -/
def piecesFrom : List Char → List Char → List (List Char)
  | [], piece => if piece.isEmpty then [] else [piece]
  | c :: cs, piece =>
    if c.isWhitespace then
      if piece.isEmpty then piecesFrom cs [] else piece :: piecesFrom cs []
    else piecesFrom cs (piece ++ [c])

/-- The pieces of a text between white space, none of them empty. -/
def pieces (text : List Char) : List (List Char) := piecesFrom text []

/-- A preprocessed source line that is not blank, with its line number (R97). -/
structure SourceLine where
  /-- the 1-indexed position in the file, blank lines counted -/
  number : Nat
  /-- the preprocessed text -/
  text : List Char
  deriving DecidableEq, Repr

/-- The non-blank lines after preprocessing, numbered from `number` (R96, R97). -/
def numberLines (marker : Char) : List (List Char) → Nat → List SourceLine
  | [], _ => []
  | line :: rest, number =>
    let text := preprocess marker line
    if text.isEmpty then numberLines marker rest (number + 1)
    else ⟨number, text⟩ :: numberLines marker rest (number + 1)

/-- The non-blank lines of a source text (R95, R97). -/
def sourceLines (marker : Char) (source : List Char) : List SourceLine :=
  numberLines marker (splitOnChar '\n' source) 1

/-- The label of a line, if it has one, and the text after it (R98). -/
def splitLabel (text : List Char) : Except AsmErrorKind (Option (List Char) × List Char) :=
  match splitOnChar ',' text with
  | [body] => .ok (none, body)
  | [before, body] =>
    let label := trim before
    if label.isEmpty then .error .addressing
    else if label.any Char.isWhitespace then .error .outsideAdmittedSubset
    else .ok (some label, body)
  | _ => .error .addressing

/-- The admitted forms of a line without its label (R111, R112). -/
inductive LineForm where
  /-- a mnemonic alone -/
  | bare (op : Opcode)
  /-- a mnemonic and an operand token -/
  | operandToken (op : Opcode) (token : List Char)
  /-- a literal with its marker, after a mnemonic or alone (opcode field 0, R107) -/
  | literal (op : Opcode) (radix : Nat) (token : List Char)
  deriving DecidableEq, Repr

/-- Whether a mnemonic takes an operand in the admitted subset: all but INPUT, OUTPUT, HALT and CLEAR (R111). -/
def takesOperand (op : Opcode) : Bool := op ≠ 0x5 ∧ op ≠ 0x6 ∧ op ≠ 0x7 ∧ op ≠ 0xA

/-- Whether an operand token after a mnemonic reads one way only: it does not begin with a keyword, nor with `I` after
ADD or JUMP (R112 (a), (b)). -/
def plainToken (op : Opcode) (token : List Char) : Bool :=
  !beginsWithKeyword token && !((op = 0x3 ∨ op = 0x9) ∧ token.head? = some 'I')

/-- The form of a line without its label (R99, R111, R112). -/
def lineForm (body : List Char) : Except AsmErrorKind LineForm :=
  if !containsKeyword (body.filter fun c => !c.isWhitespace) then .error .keywordMissing
  else
    match pieces body with
    | [k] =>
      match keywordOf k with
      | some (.mnemonic op) => .ok (.bare op)
      | _ => .error .outsideAdmittedSubset
    | [k, token] =>
      match keywordOf k with
      | some (.mnemonic op) =>
        if takesOperand op && plainToken op token then .ok (.operandToken op token) else .error .outsideAdmittedSubset
      | some (.marker radix) =>
        if beginsWithKeyword token then .error .outsideAdmittedSubset else .ok (.literal 0 radix token)
      | none => .error .outsideAdmittedSubset
    | [k, m, token] =>
      match keywordOf k, keywordOf m with
      | some (.mnemonic op), some (.marker radix) =>
        if takesOperand op && !beginsWithKeyword token then .ok (.literal op radix token)
        else .error .outsideAdmittedSubset
      | _, _ => .error .outsideAdmittedSubset
    | _ => .error .outsideAdmittedSubset

/-- The Address Book: labels with the addresses of their lines (R98). -/
abbrev AddressBook := List (List Char × Nat)

/-- A line after pass 1. -/
structure ParsedLine where
  /-- the line number in the source -/
  number : Nat
  /-- its form without the label -/
  form : LineForm
  deriving DecidableEq, Repr

/-- The Address Book with a line's label, if it has one; a label that stands there already is refused (R98, R113). -/
def addLabel (book : AddressBook) (label : Option (List Char)) (index : Nat) : Except AsmErrorKind AddressBook :=
  match label with
  | none => .ok book
  | some l => if (book.lookup l).isSome then .error .addressing else .ok (book ++ [(l, index)])

/-- One line of pass 1: its label entered in the Address Book, and its form (R98, R99). DESIGN CHOICE: the model's own
refusal of a line's form is made here, ahead of an error of a later line, and that of a number only in pass 2; the spec
does not say in which pass it falls (R108, R112; log entry 21). -/
def pass1Line (book : AddressBook) (index : Nat) (text : List Char) : Except AsmErrorKind (AddressBook × LineForm) :=
  match splitLabel text with
  | .error e => .error e
  | .ok (label, body) =>
    match addLabel book label index with
    | .error e => .error e
    | .ok book' =>
      match lineForm body with
      | .error e => .error e
      | .ok form => .ok (book', form)

/-- Pass 1: the whole source once, assigning line indexes to the non-blank lines from `index` (R98 to R100). -/
def pass1 : List SourceLine → Nat → AddressBook → Except AsmError (AddressBook × List ParsedLine)
  | [], _, book => .ok (book, [])
  | line :: rest, index, book =>
    match pass1Line book index line.text with
    | .error kind => .error ⟨kind, line.number⟩
    | .ok (book', form) =>
      match pass1 rest (index + 1) book' with
      | .error e => .error e
      | .ok (book'', lines) => .ok (book'', ⟨line.number, form⟩ :: lines)

/-- A token without its leading sign. -/
def stripSign : List Char → List Char
  | [] => []
  | c :: cs => if c = '+' ∨ c = '-' then cs else c :: cs

/-- The number a token would be, were a leading sign, a `0X` prefix and digit separators accepted, which the spec leaves
unsaid (R114, the spec's decision D26). DESIGN CHOICE: the digit separators, which R114 does not name, are the underscore
and the apostrophe, wherever they stand; the sign is one leading `+` or `-`; the prefix is read in either base (log
entry 23). -/
def markedNumber (radix : Nat) (token : List Char) : Option Int :=
  let digits := (stripSign token).filter fun c => c ≠ '_' ∧ c ≠ '\''
  (parseNumber radix (if ['0', 'X'].isPrefixOf digits then digits.drop 2 else digits)).map fun v =>
    if token.head? = some '-' then -(v : Int) else (v : Int)

/-- The three condition codes, as numbers (R105). -/
def conditionNumbers : List Int := [0x000, 0x400, 0x800]

/-- A bare operand token: a declared label's address, else a condition code in hexadecimal, else SkipcondInvalidError
(R105, R109, the spec's decision D29). A token that is a condition code but for a sign, a prefix or separators is outside
the admitted subset (93_implementation_defined.md U6; log entry 14). -/
def resolveToken (book : AddressBook) (token : List Char) : Except AsmErrorKind Operand :=
  match book.lookup token with
  | some address => .ok (BitVec.ofNat 12 address)
  | none =>
    match parseNumber 16 token with
    | some v => if (v : Int) ∈ conditionNumbers then .ok (BitVec.ofNat 12 v) else .error .skipcondInvalid
    | none =>
      if (markedNumber 16 token).any fun v => v ∈ conditionNumbers then .error .outsideAdmittedSubset
      else .error .skipcondInvalid

/-- A literal after its marker, masked to 12 bits, else IntegerExpectedError (R103, R106, R109). A token that only a sign,
a prefix or separators keep from being a literal is outside the admitted subset (R114, decision D26; log entry 14). -/
def resolveLiteral (radix : Nat) (token : List Char) : Except AsmErrorKind Operand :=
  match parseNumber radix token with
  | some v => .ok (BitVec.ofNat 12 v)
  | none => .error (if (markedNumber radix token).isSome then .outsideAdmittedSubset else .integerExpected)

/-- Folding a line to its word, `(opcode << 12) | (operand & 0xFFF)`; the operand is 0 where the line has none
(R103 to R107). -/
def foldLine (book : AddressBook) : LineForm → Except AsmErrorKind Word
  | .bare op => .ok (assembleWord op 0)
  | .operandToken op token => (resolveToken book token).map (assembleWord op)
  | .literal op radix token => (resolveLiteral radix token).map (assembleWord op)

/-- Pass 2: the word of every line, in order; a line at address 4096 cannot be stored (R101 to R107, R115). -/
def pass2 (book : AddressBook) : List ParsedLine → Nat → Except AsmError (List Word)
  | [], _ => .ok []
  | line :: rest, index =>
    match foldLine book line.form with
    | .error kind => .error ⟨kind, line.number⟩
    | .ok w =>
      if index ≥ Config.memWords then .error ⟨.storeFailed (.addressOutOfBounds index), line.number⟩
      else
        match pass2 book rest (index + 1) with
        | .error e => .error e
        | .ok words => .ok (w :: words)

/-- Assembling a source text, with the comment marker given: the words of the addresses 0, 1, 2, … or the first error;
all of pass 1 comes before pass 2 (R100, R106, R108). -/
def assembleWith (marker : Char) (source : List Char) : Except AsmError (List Word) :=
  match pass1 (sourceLines marker source) 0 [] with
  | .error e => .error e
  | .ok (book, lines) => pass2 book lines 0

/-- Assembling with the marker the source leaves open (R96, log entry 14). -/
def assemble (source : List Char) : Except AsmError (List Word) := assembleWith Config.commentMarker source

/-- What assembling into the memory store answers. A failed assembly answers no memory: the caller must treat it as
undefined (R108, 93_implementation_defined.md U3). -/
inductive AssemblyOutcome where
  /-- the state with the words stored from address 0 (R106, R116) -/
  | assembled (s : State)
  /-- the first error -/
  | failed (e : AsmError)
  /-- a run is in progress: the host has no such move (10_state.md R39) -/
  | noSuchMove
  deriving DecidableEq, Repr

/-- The words stored one after another from an address, each through the memory store's `store` (R106). -/
def storeWords : List Word → Nat → State → State
  | [], _, s => s
  | w :: rest, addr, s => storeWords rest (addr + 1) (s.writeWord addr w)

/-- The host assembles a source text into the memory store; every word the program does not cover stays as it was
(R106, R108, R116). -/
def hostAssembleWith (marker : Char) (source : List Char) (s : State) : AssemblyOutcome :=
  if s.runState = .running then .noSuchMove
  else
    match assembleWith marker source with
    | .error e => .failed e
    | .ok words => .assembled (storeWords words 0 s)

end Sys2Proof.Machine
end

