-- ==== Sys2Proof/Safety.lean ====
section
/-! DEFINITION. What a safe state is, in the terms the statements use: the invariant every step and every host move
keeps, and the words for how a run stands. -/

namespace Sys2Proof.Machine

/-- RUNSTATE agrees with HALTED and FAULT: Halted exactly when HALTED = 1 and no fault is recorded, Faulted exactly when
a fault is recorded (10_state.md R32, R33). -/
def State.StatusAgrees (s : State) : Prop :=
  (s.runState = .halted ↔ s.halted = true ∧ s.fault = none) ∧ (s.runState = .faulted ↔ s.fault ≠ none)

/-- The core waits at the step gate only in a single-step run that is in progress (10_state.md R43). -/
def State.GateAgrees (s : State) : Prop :=
  s.atGate = true → s.mode = .singleStep ∧ s.runState = .running

/-- No run has recorded a ValueOverflow (60_exceptions.md R203). -/
def State.NoOverflowFault (s : State) : Prop := ∀ v, s.fault ≠ some (.valueOverflow v)

/-- While the run goes on, MAR holds a valid address between cycles (40_instruction_cycle.md R137). -/
def State.MarValid (s : State) : Prop := s.runState = .running → s.mar.toNat < Config.memWords

/-- The invariant of the core: the memory is in its canonical form, with every listed address below 4096
(10_state.md R35), and the status, the gate, FAULT and MAR are as above. -/
structure State.Inv (s : State) : Prop where
  memory : s.mem.wf
  status : s.StatusAgrees
  gate : s.GateAgrees
  overflow : s.NoOverflowFault
  mar : s.MarValid

/-- Every word above HEAD is 0, as in a store that was only ever written through `store` (20_memory.md R64). Only
`loadRange` can break it (20_memory.md R63). -/
def State.ZeroAboveHead (s : State) : Prop := ∀ a, s.head.toNat < a → s.mem.read a = 0

/-- A run has ended (40_instruction_cycle.md R138). -/
def State.Ended (s : State) : Prop := s.runState = .halted ∨ s.runState = .faulted

/-- The state after a Fetch that read the word at PC: MAR the instruction's address, MBR and IR the word, PC the next
address (40_instruction_cycle.md R131). -/
def State.fetched (s : State) : State :=
  { s with
    mar := s.pc
    mbr := s.mem.read s.pc.toNat
    ir := s.mem.read s.pc.toNat
    pc := s.pc + 1 }

/-- The instruction that stands at PC. -/
def State.nextInstr (s : State) : Instr := decodeWord (s.mem.read s.pc.toNat)

/-- The core is about to run an instruction cycle whose Fetch succeeds: a run in progress, no wait at the gate, PC a
valid address (40_instruction_cycle.md R130, R131). -/
def State.Ready (s : State) : Prop :=
  s.runState = .running ∧ s.atGate = false ∧ s.pc.toNat < Config.memWords

/-- The state as a run in the other mode has it: only the mode and the wait at the gate differ. -/
def State.asContinuous (s : State) : State := { s with mode := .continuous, atGate := false }

end Sys2Proof.Machine
end

