-- ==== Sys2Proof/Certificates/Slice0/Obligations.lean ====
section
/-! DEFINITION. The statements for the provers, each `def Obligations.<Name> : Prop`, listed in OBLIGATIONS.json. A
docstring says which rule or section of spec/ a statement formalises; where it rests on a decision the spec marks as its
own, the docstring names that decision and its log entry. -/

open Sys2Proof Sys2Proof.Machine

/-! ### Encoding -/

/-- 30_encoding.md R91: "decode(encode(op, x)) = (op, x & 0xFFF) and encode(decode(w)) = w". The first clause is the
encoder's formula at any operand word, the second says the same of every instruction as syntax (no bit of an operand is
dropped), the third goes the other way, for every word. -/
def Obligations.DecodeInvertsEncode : Prop :=
  (∀ (op : Opcode) (n : Word), op.toNat ≤ 0xC →
    (decodeWord ((op.setWidth 16 <<< 12) ||| (n &&& 0xFFF))).opcode = op ∧
    (decodeWord ((op.setWidth 16 <<< 12) ||| (n &&& 0xFFF))).operand = n.setWidth 12 ∧
    encodeWord (decodeWord ((op.setWidth 16 <<< 12) ||| (n &&& 0xFFF))) = (op.setWidth 16 <<< 12) ||| (n &&& 0xFFF)) ∧
  (∀ i : Instr, decode (encode i) = .ok (i, [])) ∧
  (∀ w : Word, encodeWord (decodeWord w) = w)

/-- 30_encoding.md R84: "An instruction is selected by `word & 0xF000 == match`", row by row; "The 16 rows partition all
65536 words". -/
def Obligations.OpcodeMapSelectsTheInstruction : Prop :=
  ∀ w : Word,
    (w &&& 0xF000 = 0x0000 ↔ ∃ x, decodeWord w = .jns x) ∧
    (w &&& 0xF000 = 0x1000 ↔ ∃ x, decodeWord w = .load x) ∧
    (w &&& 0xF000 = 0x2000 ↔ ∃ x, decodeWord w = .store x) ∧
    (w &&& 0xF000 = 0x3000 ↔ ∃ x, decodeWord w = .add x) ∧
    (w &&& 0xF000 = 0x4000 ↔ ∃ x, decodeWord w = .subt x) ∧
    (w &&& 0xF000 = 0x5000 ↔ ∃ x, decodeWord w = .input x) ∧
    (w &&& 0xF000 = 0x6000 ↔ ∃ x, decodeWord w = .output x) ∧
    (w &&& 0xF000 = 0x7000 ↔ ∃ x, decodeWord w = .halt x) ∧
    (w &&& 0xF000 = 0x8000 ↔ ∃ x, decodeWord w = .skipcond x) ∧
    (w &&& 0xF000 = 0x9000 ↔ ∃ x, decodeWord w = .jump x) ∧
    (w &&& 0xF000 = 0xA000 ↔ ∃ x, decodeWord w = .clear x) ∧
    (w &&& 0xF000 = 0xB000 ↔ ∃ x, decodeWord w = .addi x) ∧
    (w &&& 0xF000 = 0xC000 ↔ ∃ x, decodeWord w = .jumpi x) ∧
    (w &&& 0xF000 = 0xD000 ↔ ∃ x, decodeWord w = .undefinedD x) ∧
    (w &&& 0xF000 = 0xE000 ↔ ∃ x, decodeWord w = .undefinedE x) ∧
    (w &&& 0xF000 = 0xF000 ↔ ∃ x, decodeWord w = .undefinedF x)

/-- 30_encoding.md R92, the source's worked encodings, both ways. -/
def Obligations.SourceEncodingsDecode : Prop :=
  decodeWord 0x5000 = .input 0 ∧ encodeWord (.input 0) = 0x5000 ∧
  decodeWord 0x2005 = .store 5 ∧ encodeWord (.store 5) = 0x2005 ∧
  decodeWord 0x1005 = .load 5 ∧ encodeWord (.load 5) = 0x1005 ∧
  decodeWord 0x6000 = .output 0 ∧ encodeWord (.output 0) = 0x6000 ∧
  decodeWord 0x7000 = .halt 0 ∧ encodeWord (.halt 0) = 0x7000 ∧
  decodeWord 0x0000 = .jns 0 ∧ encodeWord (.jns 0) = 0x0000

/-! ### The instruction cycle -/

/-- 40_instruction_cycle.md sections 1 to 3 (the run loop, Fetch, Decode and dispatch): where a run is in progress, the
core does not wait at the gate and PC is a valid address, one step is `exec` of the instruction decoded from the word at
PC, on the state after Fetch; and where that answers a next state, the end of the cycle as the run loop has it: a raise
leaves the loop, a set halted flag ends the run, single-step mode goes to the gate (not after a halting cycle: C10, log
entry 4). -/
def Obligations.StepRunsTheDecodedInstruction : Prop :=
  ∀ s : State, s.runState = .running → s.atGate = false → s.pc.toNat < 4096 →
    let w := s.mem.read s.pc.toNat
    step s =
      match exec (decodeWord w) { s with mar := s.pc, mbr := w, ir := w, pc := s.pc + 1 } with
      | .next u =>
        .next (if u.runState = .faulted then u
          else if u.halted = true then { u with runState := .halted }
          else if u.mode = .singleStep then { u with atGate := true }
          else u)
      | .fault r => .fault r
      | .refused r => .refused r

/-- 40_instruction_cycle.md R131: after a successful Fetch IR and MBR hold the instruction word, MAR the instruction's
own address and PC that address plus 1, at most 4096; if the load raises, MAR alone is written. -/
def Obligations.FetchLatchesTheWordAtPc : Prop :=
  ∀ (s : State) (rest : State → Result),
    (s.pc.toNat ≤ 4095 →
      fetch s rest =
        rest { s with
          mar := s.pc
          mbr := s.mem.read s.pc.toNat
          ir := s.mem.read s.pc.toNat
          pc := s.pc + 1 } ∧
      (s.pc + 1).toNat = s.pc.toNat + 1) ∧
    (4096 ≤ s.pc.toNat →
      fetch s rest =
        .next { s with mar := s.pc, fault := some (.addressOutOfBounds s.pc.toNat), runState := .faulted })

/-- 40_instruction_cycle.md R140: the state a Fetch fault leaves, everything not named unchanged. -/
def Obligations.FetchFaultState : Prop :=
  ∀ s : State, s.runState = .running → s.atGate = false → 4096 ≤ s.pc.toNat →
    step s =
      .next { s with mar := s.pc, fault := some (.addressOutOfBounds s.pc.toNat), runState := .faulted }

/-- 40_instruction_cycle.md section 4, the table of PC after each instruction (an inference the spec marks as derived):
`a` is PC before the cycle, `X` the operand; SKIPCOND's test reads AC as two's complement (D2, log entry 7). -/
def Obligations.PcAfterEachInstruction : Prop :=
  ∀ s t : State, s.Ready → step s = .next t →
    match s.nextInstr with
    | .load _ | .store _ | .add _ | .subt _ | .addi _ | .input _ | .output _ | .clear _ | .halt _
    | .undefinedD _ | .undefinedE _ | .undefinedF _ => t.pc.toNat = s.pc.toNat + 1
    | .skipcond c =>
      t.pc.toNat =
        if (c = 0x000 ∧ s.ac.toInt < 0) ∨ (c = 0x400 ∧ s.ac = 0) ∨ (c = 0x800 ∧ 0 < s.ac.toInt) then s.pc.toNat + 2
        else s.pc.toNat + 1
    | .jump x => t.pc.toNat = x.toNat
    | .jns x => t.pc.toNat = x.toNat + 1
    | .jumpi x => t.pc = s.mem.read x.toNat

/-- 40_instruction_cycle.md section 4, MAR, MBR and IR at the end of a cycle (an inference the spec marks as derived): IR is
the instruction word; MAR the operand field, but for ADDI the pointer; MBR the instruction word, but for ADD and SUBT the
operand word and for ADDI the word pointed at, or the pointer where that is no address (60_exceptions.md section 2,
D10, log entry 11). -/
def Obligations.MarMbrIrAfterEachInstruction : Prop :=
  ∀ s t : State, s.Ready → step s = .next t →
    t.ir = s.mem.read s.pc.toNat ∧
    match s.nextInstr with
    | .add x | .subt x => t.mar.toNat = x.toNat ∧ t.mbr = s.mem.read x.toNat
    | .addi x =>
      t.mar = s.mem.read x.toNat ∧
      t.mbr = if (s.mem.read x.toNat).toNat < 4096 then s.mem.read (s.mem.read x.toNat).toNat else s.mem.read x.toNat
    | i => t.mar.toNat = i.operand.toNat ∧ t.mbr = s.mem.read s.pc.toNat

/-! ### What each instruction does: LOAD, STORE, CLEAR -/

/-- 41_data_transfer.md R150, LOAD: "`AC←Memory.load(MAR)`" with MAR = X, for every X and state; MBR keeps the
instruction word, PC stays, no exception is possible, everything else is unchanged; word = 0x1000 + X. -/
def Obligations.LoadResult : Prop :=
  ∀ (x : Operand) (s : State),
    encodeWord (.load x) = 0x1000 + x.setWidth 16 ∧
    exec (.load x) s = .next { s with mar := x.setWidth 16, ac := s.mem.read x.toNat }

/-- 41_data_transfer.md section on STORE: the word at X reads as AC afterwards, every other word as before, HEAD is the
greater of HEAD and X (D16, log entry 12; no overflow by D1, log entry 6), MAR is X, everything else is unchanged. -/
def Obligations.StoreResult : Prop :=
  ∀ (x : Operand) (s : State), s.mem.wf →
    ∃ t, exec (.store x) s = .next t ∧
      t.mem.read x.toNat = s.ac ∧
      (∀ a, a ≠ x.toNat → t.mem.read a = s.mem.read a) ∧
      t.head.toNat = max s.head.toNat x.toNat ∧
      t = { s with mar := x.setWidth 16, mem := t.mem, head := t.head }

/-- 41_data_transfer.md R152, CLEAR: "`AC←0`", whatever the operand field; AC only (and MAR, by Decode). -/
def Obligations.ClearResult : Prop :=
  ∀ (x : Operand) (s : State),
    encodeWord (.clear x) = 0xA000 + x.setWidth 16 ∧
    exec (.clear x) s = .next { s with mar := x.setWidth 16, ac := 0 }

/-! ### ADD, SUBT, ADDI -/

/-- 42_arithmetic.md section 1 (the spec's decision D1, log entry 6): the ALU's results are the unsigned sum and difference
modulo 65536; read as two's complement they are the true sum and difference whenever that lies in [-32768, 32767], and
otherwise the true value plus or minus 65536. -/
def Obligations.AluWrapsModulo65536 : Prop :=
  ∀ a b : Word,
    (aluAdd a b).toNat = (a.toNat + b.toNat) % 65536 ∧
    ((aluSub a b).toNat : Int) = ((a.toNat : Int) - b.toNat) % 65536 ∧
    (signed16 (aluAdd a b) =
      if signed16 a + signed16 b < -32768 then signed16 a + signed16 b + 65536
      else if signed16 a + signed16 b > 32767 then signed16 a + signed16 b - 65536
      else signed16 a + signed16 b) ∧
    (signed16 (aluSub a b) =
      if signed16 a - signed16 b < -32768 then signed16 a - signed16 b + 65536
      else if signed16 a - signed16 b > 32767 then signed16 a - signed16 b - 65536
      else signed16 a - signed16 b)

/-- 42_arithmetic.md section 2, ADD (wrapping by D1, log entry 6): MBR is the operand word, AC the sum modulo 2^16, for
every X and state; nothing else changes but MAR. -/
def Obligations.AddResult : Prop :=
  ∀ (x : Operand) (s : State),
    exec (.add x) s =
      .next { s with mar := x.setWidth 16, mbr := s.mem.read x.toNat, ac := s.ac + s.mem.read x.toNat }

/-- 42_arithmetic.md section 2, SUBT (wrapping by D1, log entry 6): AC is the minuend, the memory word the subtrahend. -/
def Obligations.SubtResult : Prop :=
  ∀ (x : Operand) (s : State),
    exec (.subt x) s =
      .next { s with mar := x.setWidth 16, mbr := s.mem.read x.toNat, ac := s.ac - s.mem.read x.toNat }

/-- 42_arithmetic.md section 2, ADDI with a pointer below 4096 (wrapping by D1, log entry 6): afterwards MAR = p and
MBR = M[p], AC is the sum modulo 2^16. -/
def Obligations.AddiResult : Prop :=
  ∀ (x : Operand) (s : State), (s.mem.read x.toNat).toNat < 4096 →
    let p := s.mem.read x.toNat
    exec (.addi x) s =
      .next { s with mar := p, mbr := s.mem.read p.toNat, ac := s.ac + s.mem.read p.toNat }

/-- 42_arithmetic.md section 2 and 60_exceptions.md section 2, ADDI with a pointer of 4096 or more (the pointer unmasked
by D3, log entry 5; the registers by D10, log entry 11): AddressOutOfBounds(p) at the second load, with MAR and MBR the
pointer and AC unchanged. -/
def Obligations.AddiBadPointerFaults : Prop :=
  ∀ (x : Operand) (s : State), 4096 ≤ (s.mem.read x.toNat).toNat →
    let p := s.mem.read x.toNat
    exec (.addi x) s =
      .next { s with mar := p, mbr := p, fault := some (.addressOutOfBounds p.toNat), runState := .faulted }

/-! ### INPUT, OUTPUT, HALT -/

/-- 43_io_and_halt.md, INPUT (decisions D7 and D8, log entries 3, 9 and 10): AC and InReg are the delivered answer modulo
2^16 whatever the operand field; the answer is the first fixed one, which is used up, or else a fresh draw; nothing else
changes but MAR. -/
def Obligations.InputResult : Prop :=
  (∀ (x : Operand) (s : State) (v : InputAnswer) (more : List InputAnswer), s.inputs = v :: more →
    exec (.input x) s =
      .next { s with
        mar := x.setWidth 16
        inReg := BitVec.ofInt 16 (inputValue v)
        ac := BitVec.ofInt 16 (inputValue v)
        inputs := more }) ∧
  (∀ (x : Operand) (s : State), s.inputs = [] →
    exec (.input x) s =
      .next { s with
        mar := x.setWidth 16
        inReg := BitVec.ofInt 16 (inputValue (Config.inputDraw s.draws))
        ac := BitVec.ofInt 16 (inputValue (Config.inputDraw s.draws))
        draws := s.draws + 1 })

/-- 43_io_and_halt.md, the value of INPUT (decision D7, log entry 10): the answers are exactly the integers from -4095 to
4095; one that is not negative lands as it is, a negative one as its 16-bit two's complement. -/
def Obligations.InputAnswersAreTheIntegersInRange : Prop :=
  (∀ v : InputAnswer, -4095 ≤ inputValue v ∧ inputValue v ≤ 4095) ∧
  (∀ n : Int, -4095 ≤ n → n ≤ 4095 → ∃ v : InputAnswer, inputValue v = n) ∧
  (∀ v : InputAnswer,
    ((inputWord v).toNat : Int) = if 0 ≤ inputValue v then inputValue v else 65536 + inputValue v)

/-- 43_io_and_halt.md and 70_reset_and_hazards.md section 2 (decisions D7, D8, D15, D19; the wait before the cycle is the
model's, log entry 3): the host answers exactly where the core is blocked in an INPUT that has no answer yet, so never twice;
the answer changes nothing else, and the next step completes that INPUT with it and leaves no answer behind. -/
def Obligations.HostAnswerReachesTheInput : Prop :=
  (∀ (s : State) (x : Operand) (v : InputAnswer), s.Ready → s.nextInstr = .input x → s.inputs = [] →
    ∃ t u, hostAnswer s v = .done t () ∧ t = { s with inputs := [v] } ∧ (∀ w, hostAnswer t w = .noSuchMove) ∧
      step t = .next u ∧ u.ac = BitVec.ofInt 16 (inputValue v) ∧ u.inReg = BitVec.ofInt 16 (inputValue v) ∧
      u.inputs = [] ∧ u.draws = s.draws) ∧
  (∀ (s : State) (v : InputAnswer), ¬ s.Ready ∨ (∀ x, s.nextInstr ≠ .input x) ∨ s.inputs ≠ [] →
    hostAnswer s v = .noSuchMove)

/-- 43_io_and_halt.md R171, OUTPUT: "`OutReg←AC`; append `OutReg` to the output sequence", whatever the operand field; AC,
PC, memory and everything else unchanged but MAR. -/
def Obligations.OutputResult : Prop :=
  ∀ (x : Operand) (s : State),
    encodeWord (.output x) = 0x6000 + x.setWidth 16 ∧
    exec (.output x) s = .next { s with mar := x.setWidth 16, outReg := s.ac, out := s.out ++ [s.ac] }

/-- 43_io_and_halt.md, HALT: "set halted flag; run loop terminates"; every register keeps its value, IR and MBR are the
HALT word, MAR its operand field, PC the address after the HALT, also at address 4095. That a single-step cycle which halts
ends without the gate is the model's choice, which the spec does not settle (C10, 93_implementation_defined.md U15, log
entry 4). -/
def Obligations.HaltResult : Prop :=
  (∀ (x : Operand) (s : State),
    encodeWord (.halt x) = 0x7000 + x.setWidth 16 ∧
    exec (.halt x) s = .next { s with mar := x.setWidth 16, halted := true }) ∧
  (∀ (x : Operand) (s : State), s.Ready → s.nextInstr = .halt x →
    step s =
      .next { s with
        mar := x.setWidth 16
        mbr := s.mem.read s.pc.toNat
        ir := s.mem.read s.pc.toNat
        pc := s.pc + 1
        halted := true
        runState := .halted })

/-! ### JNS, SKIPCOND, JUMP, JUMPI -/

/-- 44_control_transfer.md, JNS (the stored value is PC after Fetch, decision D5, conflict C1, log entry 8; HEAD by D16):
the word at X reads as PC afterwards, every other word as before, HEAD is the greater of HEAD and X, PC is X + 1 without
any reduction, MAR is X, everything else is unchanged. -/
def Obligations.JnsResult : Prop :=
  ∀ (x : Operand) (s : State), s.mem.wf →
    ∃ t, exec (.jns x) s = .next t ∧
      t.mem.read x.toNat = s.pc ∧
      (∀ a, a ≠ x.toNat → t.mem.read a = s.mem.read a) ∧
      t.head.toNat = max s.head.toNat x.toNat ∧
      t.pc.toNat = x.toNat + 1 ∧
      t = { s with mar := x.setWidth 16, mem := t.mem, head := t.head, pc := t.pc }

/-- 44_control_transfer.md, SKIPCOND with the three legal condition codes (the inequalities read AC as two's complement,
decision D2, log entry 7): one extra increment of PC exactly when the condition holds, nothing else but MAR. -/
def Obligations.SkipcondResult : Prop :=
  ∀ s : State,
    exec (.skipcond 0x000) s =
      .next { s with mar := 0x000, pc := if 0x8000 ≤ s.ac.toNat then s.pc + 1 else s.pc } ∧
    exec (.skipcond 0x400) s =
      .next { s with mar := 0x400, pc := if s.ac.toNat = 0 then s.pc + 1 else s.pc } ∧
    exec (.skipcond 0x800) s =
      .next { s with mar := 0x800, pc := if 1 ≤ s.ac.toNat ∧ s.ac.toNat ≤ 0x7FFF then s.pc + 1 else s.pc }

/-- 30_encoding.md section 4, the reserved condition fields (decision D6, log entry 15): every other condition, compared
on all 12 bits, is refused by name. -/
def Obligations.ReservedSkipcondIsRefused : Prop :=
  ∀ (c : Operand) (s : State), c ≠ 0x000 → c ≠ 0x400 → c ≠ 0x800 →
    exec (.skipcond c) s = .refused (.skipcondReservedCondition c)

/-- 44_control_transfer.md, the corner case of SKIPCOND (two's complement by D2, log entry 7): for every AC exactly one of
the three legal SKIPCOND words skips. -/
def Obligations.ExactlyOneConditionSkips : Prop :=
  ∀ s : State, ∃ c ∈ conditionCodes, ∀ d ∈ conditionCodes, ∃ t, exec (.skipcond d) s = .next t ∧
    t.pc = if d = c then s.pc + 1 else s.pc

/-- 44_control_transfer.md R182, JUMP: "`PC←MAR`" with MAR = X, an absolute valid address; PC only (and MAR). -/
def Obligations.JumpResult : Prop :=
  ∀ (x : Operand) (s : State),
    encodeWord (.jump x) = 0x9000 + x.setWidth 16 ∧
    exec (.jump x) s = .next { s with mar := x.setWidth 16, pc := x.setWidth 16 } ∧
    (x.setWidth 16 : Word).toNat ≤ 4095

/-- 44_control_transfer.md R183, JUMPI: "`PC←Memory.load(MAR)`", all 16 bits of the word; PC only (and MAR), MBR is not
written, no exception in the instruction itself. Where the word is 4096 or more the NEXT cycle's Fetch raises
AddressOutOfBounds of it, with IR still the JUMPI word and MAR the bad target: at once in continuous mode, after the
acknowledgment in single-step mode (10_state.md section 5). -/
def Obligations.JumpiResult : Prop :=
  (∀ (x : Operand) (s : State),
    encodeWord (.jumpi x) = 0xC000 + x.setWidth 16 ∧
    exec (.jumpi x) s = .next { s with mar := x.setWidth 16, pc := s.mem.read x.toNat }) ∧
  (∀ (x : Operand) (s : State), s.Ready → s.halted = false → s.nextInstr = .jumpi x →
    4096 ≤ (s.mem.read x.toNat).toNat →
    ∃ t u, step s = .next t ∧ t.runState = .running ∧ t.pc = s.mem.read x.toNat ∧ t.ir = s.mem.read s.pc.toNat ∧
      (s.mode = .continuous → u = t) ∧ (s.mode = .singleStep → hostAcknowledge t = .done u ()) ∧
      u.pc = s.mem.read x.toNat ∧ u.ir = s.mem.read s.pc.toNat ∧
      step u =
        .next { u with
          mar := s.mem.read x.toNat
          fault := some (.addressOutOfBounds (s.mem.read x.toNat).toNat)
          runState := .faulted })

/-- 44_control_transfer.md, the source's property of JNS and JUMPI (the link value by D5, log entry 8): a JNS through X and
a later JUMPI through X resumes at the instruction after the JNS, with AC preserved. -/
def Obligations.CallThenReturnResumes : Prop :=
  ∀ (x : Operand) (s t : State), s.mem.wf → exec (.jns x) s = .next t →
    ∃ u, exec (.jumpi x) t = .next u ∧ u.pc = s.pc ∧ u.ac = s.ac

/-! ### Undefined opcodes -/

/-- 60_exceptions.md section 1, UndecodableOpcode(opcode): each undefined opcode, with any operand field, records the 4-bit
opcode and ends the run; in a cycle, IR holds the whole word and PC - 1 is its address; and no word below 0xD000 raises it.
That MAR is the operand field and every other register unchanged is a sentence of 30_encoding.md section 3 that the spec
marks as derived, and the table of 60_exceptions.md section 2 with decision D10 (log entry 11, DEDUCED). -/
def Obligations.UndefinedOpcodesRaiseUndecodable : Prop :=
  (∀ (x : Operand) (s : State),
    exec (.undefinedD x) s =
      .next { s with mar := x.setWidth 16, fault := some (.undecodableOpcode 0xD), runState := .faulted } ∧
    exec (.undefinedE x) s =
      .next { s with mar := x.setWidth 16, fault := some (.undecodableOpcode 0xE), runState := .faulted } ∧
    exec (.undefinedF x) s =
      .next { s with mar := x.setWidth 16, fault := some (.undecodableOpcode 0xF), runState := .faulted }) ∧
  (∀ s : State, s.Ready → 0xD000 ≤ (s.mem.read s.pc.toNat).toNat →
    ∃ t, step s = .next t ∧ t.fault = some (.undecodableOpcode (opcodeField (s.mem.read s.pc.toNat))) ∧
      t.runState = .faulted ∧ t.ir = s.mem.read s.pc.toNat ∧ t.pc - 1 = s.pc) ∧
  (∀ (s t : State) (op : Opcode), s.Ready → s.fault = none → (s.mem.read s.pc.toNat).toNat < 0xD000 →
    step s = .next t → t.fault ≠ some (.undecodableOpcode op))

/-! ### Frames -/

/-- 20_memory.md section 4 (which instructions reach memory): LOAD, ADD, SUBT, INPUT, OUTPUT, HALT, SKIPCOND, JUMP, CLEAR,
ADDI, JUMPI and the undefined opcodes store nothing: where one answers a next state, every word of memory reads as before
and HEAD is as before. -/
def Obligations.NonStoringFormsKeepMemory : Prop :=
  ∀ (i : Instr) (s t : State), (∀ x, i ≠ .store x ∧ i ≠ .jns x) → exec i s = .next t →
    (∀ a, t.mem.read a = s.mem.read a) ∧ t.head = s.head

/-- 20_memory.md section 4: STORE and JNS store one word, at the address Decode leaves in MAR; every other word reads as
before. -/
def Obligations.StoringFormsKeepOtherWords : Prop :=
  ∀ (i : Instr) (x : Operand) (s t : State), i = .store x ∨ i = .jns x → exec i s = .next t →
    ∀ a, a ≠ (latchOperand s x).mar.toNat → t.mem.read a = s.mem.read a

/-- 10_state.md section 2, the access summary (an inference the spec marks as derived; InReg by D8, log entry 9), and
section 3: what Decode+Execute writes at all. AC: LOAD, ADD, SUBT, INPUT, CLEAR, ADDI. MBR: ADD, SUBT, ADDI. PC: JNS,
SKIPCOND, JUMP, JUMPI. IR: nothing. InReg: INPUT. OutReg and OUT: OUTPUT. HALTED: HALT. M and HEAD: STORE, JNS. FAULT and
RUNSTATE: ADDI and the undefined opcodes. The mode and the gate: nothing; the answers and the draw counter: INPUT. -/
def Obligations.EachInstructionWritesOnlyItsState : Prop :=
  ∀ (i : Instr) (s t : State), exec i s = .next t →
    t.ir = s.ir ∧ t.mode = s.mode ∧ t.atGate = s.atGate ∧
    (t.ac ≠ s.ac →
      ∃ x, i = .load x ∨ i = .add x ∨ i = .subt x ∨ i = .input x ∨ i = .clear x ∨ i = .addi x) ∧
    (t.mbr ≠ s.mbr → ∃ x, i = .add x ∨ i = .subt x ∨ i = .addi x) ∧
    (t.pc ≠ s.pc → ∃ x, i = .jns x ∨ i = .skipcond x ∨ i = .jump x ∨ i = .jumpi x) ∧
    (t.inReg ≠ s.inReg ∨ t.inputs ≠ s.inputs ∨ t.draws ≠ s.draws → ∃ x, i = .input x) ∧
    (t.outReg ≠ s.outReg ∨ t.out ≠ s.out → ∃ x, i = .output x) ∧
    (t.halted ≠ s.halted → ∃ x, i = .halt x) ∧
    (t.mem ≠ s.mem ∨ t.head ≠ s.head → ∃ x, i = .store x ∨ i = .jns x) ∧
    (t.fault ≠ s.fault ∨ t.runState ≠ s.runState →
      ∃ x, i = .addi x ∨ i = .undefinedD x ∨ i = .undefinedE x ∨ i = .undefinedF x)

/-! ### Fatal errors, the end of a run, progress -/

/-- 60_exceptions.md section 1 (the two raise sites of AddressOutOfBounds are an inference the spec marks as derived, with
D3, log entry 5; ValueOverflow unreachable by D1, log entry 6): a step records a fault exactly in three cases: a Fetch
with PC at 4096 or above, an undefined opcode, an ADDI through a pointer of 4096 or more; and it records which. -/
def Obligations.FaultsHaveThreeSites : Prop :=
  ∀ (s t : State) (e : FatalError), s.fault = none → step s = .next t →
    (t.fault = some e ↔
      (4096 ≤ s.pc.toNat ∧ e = .addressOutOfBounds s.pc.toNat) ∨
      (s.pc.toNat < 4096 ∧ 0xD000 ≤ (s.mem.read s.pc.toNat).toNat ∧
        e = .undecodableOpcode (opcodeField (s.mem.read s.pc.toNat))) ∨
      (s.pc.toNat < 4096 ∧ ∃ x, s.nextInstr = .addi x ∧ 4096 ≤ (s.mem.read x.toNat).toNat ∧
        e = .addressOutOfBounds (s.mem.read x.toNat).toNat))

/-- 60_exceptions.md R208: "OUT, M and HEAD keep every change made by the instructions that completed before the fault; the
faulting cycle itself changes none of them"; nor does it write AC. -/
def Obligations.FaultKeepsOutputAndMemory : Prop :=
  ∀ s t : State, step s = .next t → t.runState = .faulted →
    t.out = s.out ∧ t.mem = s.mem ∧ t.head = s.head ∧ t.ac = s.ac

/-- 40_instruction_cycle.md R138: a run has ended exactly when RUNSTATE is Halted or Faulted; Halted is reached only by
executing HALT, Faulted only by a raise; after the end, and before a run, no instruction executes and there is no next
state until the host acts. -/
def Obligations.RunEndsOnlyByHaltOrRaise : Prop :=
  (∀ s t : State, s.Inv → step s = .next t →
    (t.runState = .halted ↔ (s.pc.toNat < 4096 ∧ ∃ x, s.nextInstr = .halt x)) ∧
    (t.runState = .faulted ↔ ∃ e, s.fault = none ∧ t.fault = some e) ∧
    (t.runState = .halted ∨ t.runState = .faulted ∨ t.runState = .running)) ∧
  (∀ s : State, s.Ended ∨ s.runState = .idle → step s = .fault (.notRunning s.runState))

/-- 40_instruction_cycle.md sections 1 to 3: while a run is in progress and the core does not wait at the gate, a step
always has a next state, but for one case, which is refused by name: a SKIPCOND with a reserved condition field
(30_encoding.md section 4, decision D6, log entry 15). ASSUMED for an INPUT cycle: the host answers, as is its duty
(decision D19, 93_implementation_defined.md U11); the model takes the answer as given (log entry 3), and of a core whose
host never answers the statement says nothing. -/
def Obligations.RunningCoreAlwaysSteps : Prop :=
  ∀ s : State, s.runState = .running → s.atGate = false →
    (∀ c, s.pc.toNat < 4096 → s.nextInstr = .skipcond c → c ∉ conditionCodes →
      step s = .refused (.skipcondReservedCondition c)) ∧
    ((4096 ≤ s.pc.toNat ∨ ∀ c, s.nextInstr = .skipcond c → c ∈ conditionCodes) → ∃ t, step s = .next t)

/-! ### Invariants -/

/-- The headline invariant (10_state.md sections 3 to 5, 40_instruction_cycle.md section 4, 60_exceptions.md section 1):
every step keeps the memory canonical and inside 0 to 4095, RUNSTATE in agreement with HALTED and FAULT, the gate in
single-step runs only, no ValueOverflow recorded, and MAR a valid address while the run goes on. Its clauses rest on the
canonical list as the form of memory (the model's, log entry 1), on the gate only while Running, so not after a HALT (the
model's, C10, log entry 4), on no ValueOverflow in a run (D1, log entry 6), and on MAR at the end of a cycle, which the spec
marks as derived. -/
def Obligations.StepKeepsTheInvariant : Prop :=
  ∀ s t : State, s.Inv → step s = .next t → t.Inv

/-- The invariant holds at reset and at power-on (10_state.md section 6, 70_reset_and_hazards.md section 1). State.reset as
the run-start reset is the model's choice (log entry 2), the mode and the gate in both are those of log entry 4, and HALTED
and FAULT at power-on and at a run start are the spec's decisions D13 and D14 (log entry 12). -/
def Obligations.ResetMeetsTheInvariant : Prop := State.reset.Inv ∧ State.powerOn.Inv

/-- Every move of the host keeps the invariant, whether it succeeds or reports a memory error to the host (10_state.md
section 5): store, load, serializeRange, loadRange (what stands after a failing one by D22, log entry 13), run start,
input answer, acknowledgment, examination (which shows a state that meets it too), outcome, and a successful assembly
into memory. A failed assembly answers no state. While a run is in progress none of the memory moves exists (D15, log
entry 16). -/
def Obligations.HostMovesKeepTheInvariant : Prop :=
  ∀ s : State, s.Inv →
    (∀ values t, hostLoadRange s values = .done t () → t.Inv) ∧
    (∀ values t e, hostLoadRange s values = .failed t e → t.Inv) ∧
    (∀ v a t, hostStore s v a = .done t () → t.Inv) ∧
    (∀ v a t e, hostStore s v a = .failed t e → t.Inv) ∧
    (∀ a t w, hostLoad s a = .done t w → t.Inv) ∧
    (∀ a t e, hostLoad s a = .failed t e → t.Inv) ∧
    (∀ t words, hostSerializeRange s = .done t words → t.Inv) ∧
    (∀ m t, hostStartRun s m = .done t () → t.Inv) ∧
    (∀ t, hostAcknowledge s = .done t () → t.Inv) ∧
    (∀ v t, hostAnswer s v = .done t () → t.Inv) ∧
    (∀ t view, hostExamine s = .done t view → t.Inv ∧ view.Inv) ∧
    (∀ t outcome, hostOutcome s = .done t outcome → t.Inv) ∧
    (∀ marker source t, hostAssembleWith marker source s = .assembled t → t.Inv) ∧
    (s.runState = .running →
      (∀ a, hostLoad s a = .noSuchMove) ∧ (∀ v a, hostStore s v a = .noSuchMove) ∧
      hostSerializeRange s = .noSuchMove ∧ (∀ values, hostLoadRange s values = .noSuchMove) ∧
      ∀ marker source, hostAssembleWith marker source s = .noSuchMove)

/-- 10_state.md section 4 (HEAD as a register of the block by D16, log entry 12) and 20_memory.md R64: in a run HEAD never
falls, and the words above it stay 0. -/
def Obligations.HeadBoundsTheWrittenWords : Prop :=
  ∀ s t : State, step s = .next t → s.head.toNat ≤ t.head.toNat ∧ (s.ZeroAboveHead → t.ZeroAboveHead)

/-- 10_state.md section 4, OUT (unbounded by D21, log entry 17): only OUTPUT appends to it, one word, the value of AC;
nothing removes or reorders its elements. -/
def Obligations.OutputSequenceOnlyGrows : Prop :=
  ∀ s t : State, step s = .next t →
    (∀ x, s.pc.toNat < 4096 → s.nextInstr = .output x → t.out = s.out ++ [s.ac]) ∧
    ((4096 ≤ s.pc.toNat ∨ ∀ x, s.nextInstr ≠ .output x) → t.out = s.out)

/-- 60_exceptions.md section 4 and 10_state.md section 5 (decision D30, log entry 4): the two run modes share one loop.
A single-step cycle and a continuous cycle from the same state have the same outcome, and where there is a next state it
differs in the mode and the wait at the gate only. -/
def Obligations.SingleStepChangesNothing : Prop :=
  ∀ s : State, s.atGate = false →
    match step { s with mode := .singleStep } with
    | .next t => step { s with mode := .continuous } = .next { t with mode := .continuous, atGate := false }
    | .fault r => step { s with mode := .continuous } = .fault r
    | .refused r => step { s with mode := .continuous } = .refused r

/-- 10_state.md section 5, the step gate (where it stands after a cycle by 40_instruction_cycle.md section 1; the wait as
93_implementation_defined.md U11 says): a single-step cycle after which the run goes on ends at the gate; there the core
has no next state; the host's acknowledgment opens the gate and changes nothing else. -/
def Obligations.StepGateWaitsForTheHost : Prop :=
  ∀ s t : State, s.mode = .singleStep → step s = .next t → t.runState = .running →
    t.atGate = true ∧ step t = .fault .waitingAtStepGate ∧ hostExamine t = .done t t ∧
    hostAcknowledge t = .done { t with atGate := false } ()

/-! ### Reset and run start -/

/-- 10_state.md section 6, the reset values (the registers at power-on by D13, HALTED and FAULT by D14, log entry 12):
State.powerOn is Idle with the seven registers 0, every word of memory 0, HEAD 0, OUT empty; State.reset, the model's choice
of reset state (log entry 2), is the run-start reset of it, with the mode and the gate of log entry 4. -/
def Obligations.ResetIsTheRunStartOfPowerOn : Prop :=
  (∀ a, State.powerOn.mem.read a = 0) ∧ State.powerOn.head = 0 ∧ State.powerOn.out = [] ∧
  State.powerOn.runState = .idle ∧ State.powerOn.halted = false ∧ State.powerOn.fault = none ∧
  State.powerOn.ac = 0 ∧ State.powerOn.mar = 0 ∧ State.powerOn.mbr = 0 ∧ State.powerOn.pc = 0 ∧
  State.powerOn.ir = 0 ∧ State.powerOn.inReg = 0 ∧ State.powerOn.outReg = 0 ∧
  hostStartRun State.powerOn .continuous = .done State.reset () ∧
  State.reset.pc = 0 ∧ State.reset.runState = .running ∧ (∀ a, State.reset.mem.read a = 0) ∧ State.reset.head = 0

/-- 70_reset_and_hazards.md section 1, the run-start reset (HALTED and FAULT by D14, log entry 12): where no run is in
progress the host can start one, in either mode; all seven registers are 0, OUT empty, HALTED and FAULT cleared, M and
HEAD as they were, the mode the host's and the gate open (log entry 4); where one is in progress it has no such move (D15,
log entry 16). -/
def Obligations.RunStartResetsRegistersAndKeepsMemory : Prop :=
  ∀ (s : State) (m : RunMode),
    (s.runState ≠ .running →
      ∃ t, hostStartRun s m = .done t () ∧
        t.ac = 0 ∧ t.mar = 0 ∧ t.mbr = 0 ∧ t.pc = 0 ∧ t.ir = 0 ∧ t.inReg = 0 ∧ t.outReg = 0 ∧
        t.out = [] ∧ t.halted = false ∧ t.fault = none ∧ t.runState = .running ∧ t.mode = m ∧ t.atGate = false ∧
        t.mem = s.mem ∧ t.head = s.head) ∧
    (s.runState = .running → hostStartRun s m = .noSuchMove)

/-- 10_state.md R29: a register that nothing has written in the current run holds 0. A run start leaves all seven at 0, and
a register that is 0 stays 0 through every step that does not write it: AC but for its six writers, InReg but for INPUT,
OutReg but for OUTPUT, and MBR, IR and PC through a cycle whose Fetch raises (every other cycle writes them, and every cycle
writes MAR); the host's answer and acknowledgment write none. An OUTPUT as a program's first instruction appends 0 and is no
error. -/
def Obligations.UnwrittenRegistersReadZero : Prop :=
  (∀ (s : State) (m : RunMode),
    (runStart s m).ac = 0 ∧ (runStart s m).mar = 0 ∧ (runStart s m).mbr = 0 ∧ (runStart s m).pc = 0 ∧
    (runStart s m).ir = 0 ∧ (runStart s m).inReg = 0 ∧ (runStart s m).outReg = 0 ∧
    ∀ x, s.mem.read 0 = encodeWord (.output x) →
      ∃ t, step (runStart s m) = .next t ∧ t.out = [0] ∧ t.fault = none) ∧
  (∀ s t : State, step s = .next t →
    (s.ac = 0 →
      (s.pc.toNat < 4096 → ∀ x, s.nextInstr ≠ .load x ∧ s.nextInstr ≠ .add x ∧ s.nextInstr ≠ .subt x ∧
        s.nextInstr ≠ .input x ∧ s.nextInstr ≠ .clear x ∧ s.nextInstr ≠ .addi x) →
      t.ac = 0) ∧
    (s.inReg = 0 → (s.pc.toNat < 4096 → ∀ x, s.nextInstr ≠ .input x) → t.inReg = 0) ∧
    (s.outReg = 0 → (s.pc.toNat < 4096 → ∀ x, s.nextInstr ≠ .output x) → t.outReg = 0) ∧
    (4096 ≤ s.pc.toNat → (s.mbr = 0 → t.mbr = 0) ∧ (s.ir = 0 → t.ir = 0) ∧ t.pc = s.pc)) ∧
  (∀ (s t : State) (v : InputAnswer), hostAnswer s v = .done t () ∨ hostAcknowledge s = .done t () →
    t.ac = s.ac ∧ t.mar = s.mar ∧ t.mbr = s.mbr ∧ t.pc = s.pc ∧ t.ir = s.ir ∧ t.inReg = s.inReg ∧
      t.outReg = s.outReg)

/-! ### The memory store and the image -/

/-- 20_memory.md R71: "`store(v,a)` then `load(a)` returns `v`"; a store to 4096 or above fails with the out-of-bounds
error, a store of more than 65535 with the overflow error, and neither mutates the store (the host sees the state
unchanged); every other word reads as before. -/
def Obligations.StoreThenLoad : Prop :=
  ∀ (s : State) (v a : Nat), s.mem.wf → s.runState ≠ .running →
    (a ≤ 4095 → v ≤ 65535 →
      ∃ t, hostStore s v a = .done t () ∧ hostLoad t a = .done t (BitVec.ofNat 16 v) ∧
        (BitVec.ofNat 16 v).toNat = v ∧
        t.head.toNat = max s.head.toNat a ∧ (∀ b, b ≠ a → t.mem.read b = s.mem.read b)) ∧
    (4096 ≤ a → hostStore s v a = .failed s (.addressOutOfBounds a)) ∧
    (a ≤ 4095 → 65535 < v → hostStore s v a = .failed s (.valueOverflow v))

/-- 20_memory.md R53: `load(address)` fails with AddressOutOfBounds at 4096 and above, otherwise returns the stored word, 0
if never written, which as an instruction is JNS 0; a load changes no state. -/
def Obligations.LoadReturnsTheStoredWord : Prop :=
  (∀ (m : Memory) (a : Nat),
    memRead m a = if 4096 ≤ a then .error (.addressOutOfBounds a) else .ok (m.read a)) ∧
  (∀ a, a ≤ 4095 → memRead State.powerOn.mem a = .ok 0) ∧ decodeWord 0 = .jns 0 ∧
  (∀ (s t : State) (a : Nat) (w : Word), hostLoad s a = .done t w → t = s)

/-- 20_memory.md section 5, loadRange (no clearing by D32, the long sequence by D22, log entry 13): the words stand from
address 0, every other word is as before, HEAD is the last address written, or 0; a sequence of more than 4096 words
fails with AddressOutOfBounds(4096). -/
def Obligations.LoadRangeWritesFromZero : Prop :=
  ∀ (s : State) (values : List Nat), s.mem.wf → s.runState ≠ .running → (∀ v ∈ values, v ≤ 65535) →
    (values.length ≤ 4096 →
      ∃ t, hostLoadRange s values = .done t () ∧
        (∀ k v, values[k]? = some v → t.mem.read k = BitVec.ofNat 16 v) ∧
        (∀ a, values.length ≤ a → t.mem.read a = s.mem.read a) ∧
        t.head.toNat = values.length - 1) ∧
    (4096 < values.length →
      ∃ t, hostLoadRange s values = .failed t (.addressOutOfBounds 4096) ∧
        ∀ k v, k < 4096 → values[k]? = some v → t.mem.read k = BitVec.ofNat 16 v)

/-- 20_memory.md R64: "serializing a Memory Store then loading it into a fresh store reproduces identical `load()` results
for every address `0..=head` and an identical head marker"; and addresses above HEAD are 0 in both stores when the first
was only ever written through `store`. -/
def Obligations.SerializeThenLoadReproducesTheStore : Prop :=
  ∀ s : State, s.runState ≠ .running →
    ∃ t, hostSerializeRange s = .done s (serializeRange s) ∧
      hostLoadRange State.powerOn ((serializeRange s).map BitVec.toNat) = .done t () ∧
      (∀ a, a ≤ s.head.toNat → hostLoad t a = .done t (s.mem.read a)) ∧ t.head = s.head ∧
      (s.ZeroAboveHead → ∀ a, t.mem.read a = s.mem.read a)

/-- 20_memory.md section 5, the persisted image: one word a line, four characters from `0-9A-F`, most significant digit
first, one line per address from 0 to HEAD, no header; reading the text back gives the words. That nothing follows the
last word is the model's choice, which the spec leaves out of its scope (log entry 22). -/
def Obligations.ImageTextRoundTrip : Prop :=
  ∀ s : State,
    (imageLines s).length = s.head.toNat + 1 ∧
    (∀ line ∈ imageLines s, line.length = 4 ∧
      ∀ c ∈ line, c ∈ ['0', '1', '2', '3', '4', '5', '6', '7', '8', '9', 'A', 'B', 'C', 'D', 'E', 'F']) ∧
    splitOnChar '\n' (imageText s) = imageLines s ∧
    (∀ k, k ≤ s.head.toNat →
      ((imageLines s)[k]?.bind (parseNumber 16)) = some (s.mem.read k).toNat) ∧
    readImage (imageText s) = some (serializeRange s)

/-- 20_memory.md section 6 (an inference the spec marks as derived): a store to the next instruction's address is seen by
the very next Fetch, with nothing in between. -/
def Obligations.StoreIsSeenByTheNextFetch : Prop :=
  ∀ (s t : State) (x : Operand), s.mem.wf → s.Ready → s.nextInstr = .store x → x.toNat = s.pc.toNat + 1 →
    step s = .next t → t.nextInstr = decodeWord s.ac

/-! ### The assembler -/

/-- 30_encoding.md R120: the source's example program assembles to its six words at addresses 0 to 5, label `A` resolves to
5, and HEAD is 5 afterwards on the power-on store; for every comment marker that does not stand in the text. -/
def Obligations.SourceExampleAssembles : Prop :=
  ∀ marker : Char, marker ∉ "INPUT\nSTORE A\nLOAD A\nOUTPUT\nHALT\nA, HEX 0".toList →
    let source := "INPUT\nSTORE A\nLOAD A\nOUTPUT\nHALT\nA, HEX 0".toList
    assembleWith marker source = .ok [0x5000, 0x2005, 0x1005, 0x6000, 0x7000, 0x0000] ∧
    (∃ lines, pass1 (sourceLines marker source) 0 [] = .ok ([(['A'], 5)], lines)) ∧
    ∃ t, hostAssembleWith marker source State.powerOn = .assembled t ∧ t.head = 5

/-- 30_encoding.md R121: a line with two label separators fails assembly with an addressing error citing its line number,
blank lines counted, when pass 1 reaches it; and a line whose operand token is neither a declared label nor one of the three
condition codes in hexadecimal fails. The first clause says what a line number is: the lines with text are exactly the raw
lines of the source that are not blank after preprocessing, each numbered by its place in the source, from 1. -/
def Obligations.AssemblerRejectsBadLines : Prop :=
  (∀ (marker : Char) (source : List Char) (line : SourceLine),
    line ∈ sourceLines marker source ↔
      line.text ≠ [] ∧ 1 ≤ line.number ∧
      ∃ raw, (splitOnChar '\n' source)[line.number - 1]? = some raw ∧ preprocess marker raw = line.text) ∧
  (∀ (marker : Char) (source : List Char) (before after : List SourceLine) (line : SourceLine) (book : AddressBook)
      (forms : List ParsedLine),
    sourceLines marker source = before ++ line :: after → pass1 before 0 [] = .ok (book, forms) →
    2 ≤ line.text.count ',' → assembleWith marker source = .error ⟨.addressing, line.number⟩) ∧
  (∀ (marker : Char) (source : List Char) (book : AddressBook) (before after : List ParsedLine) (number : Nat)
      (op : Opcode) (token : List Char),
    pass1 (sourceLines marker source) 0 [] =
      .ok (book, before ++ ⟨number, .operandToken op token⟩ :: after) →
    book.lookup token = none →
    (∀ v, parseNumber 16 token = some v → v ≠ 0 ∧ v ≠ 0x400 ∧ v ≠ 0x800) →
    ∃ e, assembleWith marker source = .error e)

/-- 30_encoding.md section 7 (encoding, placement and defaults): an assembled program is one word per non-blank source
line, at most 4096, stored from address 0, and every word beyond is as it was. -/
def Obligations.AssemblyIsOneWordPerLine : Prop :=
  ∀ (marker : Char) (source : List Char) (s : State) (words : List Word), s.mem.wf → s.runState ≠ .running →
    assembleWith marker source = .ok words →
    words.length = (sourceLines marker source).length ∧ words.length ≤ 4096 ∧
    ∃ t, hostAssembleWith marker source s = .assembled t ∧
      (∀ (k : Nat) w, words[k]? = some w → t.mem.read k = w) ∧
      (∀ a, words.length ≤ a → t.mem.read a = s.mem.read a)
end

