-- ==== Sys2Proof/Laws/Memory.lean ====
section
/-! SUPPORT. The laws of the raw memory: the canonical form is kept, a read after a write, equal contents are equal
data. -/

namespace Sys2Proof.Machine

/-- The word a listed entry gives in an address-ordered memory. -/
theorem Memory.read_of_mem {m : Memory} (h : m.wf) {a : Nat} {v : Word} (hm : (a, v) ∈ m) : m.read a = v := by
  induction m with
  | nil => simp at hm
  | cons c rest ih =>
    obtain ⟨k, u⟩ := c
    have hw := h.1
    rw [List.pairwise_cons] at hw
    rcases List.mem_cons.mp hm with he | hr
    · simp only [Prod.mk.injEq] at he
      simp [Memory.read, he.1, he.2]
    · have : k < a := hw.1 _ hr
      have hrest : Memory.wf rest := ⟨hw.2, fun c hc => h.2 c (List.mem_cons_of_mem _ hc)⟩
      simp [Memory.read, Nat.ne_of_lt this, ih hrest hr]

/-- An address without an entry reads as 0. -/
theorem Memory.read_of_not_listed {m : Memory} {a : Nat} (h : ∀ c ∈ m, c.1 ≠ a) : m.read a = 0 := by
  induction m with
  | nil => rfl
  | cons c rest ih =>
    obtain ⟨k, u⟩ := c
    have hk : k ≠ a := h (k, u) (by simp)
    simp [Memory.read, hk, ih fun c hc => h c (List.mem_cons_of_mem _ hc)]

/-- In the canonical form an address reads as other than 0 exactly when it has an entry. -/
theorem Memory.listed_of_read_ne {m : Memory} {a : Nat} (h : m.read a ≠ 0) : (a, m.read a) ∈ m := by
  induction m with
  | nil => exact absurd rfl h
  | cons c rest ih =>
    obtain ⟨k, u⟩ := c
    by_cases hk : k = a
    · simp [Memory.read, hk]
    · simp only [Memory.read, hk, if_false] at h ⊢
      exact List.mem_cons_of_mem _ (ih h)

/-- The entries after a write: those of before at other addresses, and the written one. -/
theorem Memory.mem_write {m : Memory} {a : Nat} {v : Word} {c : WordCell} (h : c ∈ m.write a v) :
    c ∈ m ∨ (c = (a, v) ∧ v ≠ Memory.unlisted) := by
  induction m with
  | nil =>
    simp only [Memory.write] at h
    split at h
    · simp at h
    · exact .inr ⟨by simpa using h, ‹_›⟩
  | cons d rest ih =>
    obtain ⟨k, u⟩ := d
    simp only [Memory.write] at h
    split at h
    · split at h
      · exact .inl h
      · rcases List.mem_cons.mp h with h | h
        · exact .inr ⟨h, ‹_›⟩
        · exact .inl h
    · split at h
      · split at h
        · exact .inl (List.mem_cons_of_mem _ h)
        · rcases List.mem_cons.mp h with h | h
          · exact .inr ⟨h, ‹_›⟩
          · exact .inl (List.mem_cons_of_mem _ h)
      · rcases List.mem_cons.mp h with h | h
        · exact .inl (by simp [h])
        · rcases ih h with h | h
          · exact .inl (List.mem_cons_of_mem _ h)
          · exact .inr h

/-- A write keeps the addresses strictly rising. -/
theorem Memory.write_pairwise {m : Memory} {a : Nat} {v : Word}
    (h : m.Pairwise fun c d : WordCell => c.1 < d.1) : (m.write a v).Pairwise fun c d : WordCell => c.1 < d.1 := by
  induction m with
  | nil => simp only [Memory.write]; split <;> simp
  | cons d rest ih =>
    obtain ⟨k, u⟩ := d
    have hc := List.pairwise_cons.mp h
    simp only [Memory.write]
    split
    · rename_i hlt
      split
      · exact h
      · refine List.pairwise_cons.mpr ⟨fun c hmem => ?_, h⟩
        rcases List.mem_cons.mp hmem with he | hr
        · simpa [he] using hlt
        · exact Nat.lt_trans hlt (hc.1 c hr)
    · rename_i hge
      split
      · rename_i heq
        split
        · exact hc.2
        · exact List.pairwise_cons.mpr ⟨fun c hr => heq ▸ hc.1 c hr, hc.2⟩
      · rename_i hne
        refine List.pairwise_cons.mpr ⟨fun c hmem => ?_, ih hc.2⟩
        rcases Memory.mem_write hmem with hr | ⟨he, _⟩
        · exact hc.1 c hr
        · simp only [he]; omega

/-- Every memory operation keeps the canonical form. -/
theorem Memory.write_wf {m : Memory} {a : Nat} {v : Word} (h : m.wf) (ha : a < Config.memWords) : (m.write a v).wf := by
  refine ⟨Memory.write_pairwise h.1, fun c hc => ?_⟩
  rcases Memory.mem_write hc with hm | ⟨he, hv⟩
  · exact h.2 c hm
  · exact he ▸ ⟨ha, hv⟩

/-- A read after a write to another address. -/
theorem Memory.read_write_ne (m : Memory) {a b : Nat} (v : Word) (h : b ≠ a) : (m.write a v).read b = m.read b := by
  induction m with
  | nil => simp only [Memory.write]; split <;> simp [Memory.read, Ne.symm h]
  | cons d rest ih =>
    obtain ⟨k, u⟩ := d
    simp only [Memory.write]
    split
    · split <;> simp [Memory.read, Ne.symm h]
    · split
      · rename_i heq
        split <;> simp [Memory.read, ← heq, Ne.symm h]
      · simp [Memory.read, ih]

/-- A read after a write to the same address. -/
theorem Memory.read_write_self {m : Memory} (h : m.wf) (a : Nat) (v : Word) : (m.write a v).read a = v := by
  induction m with
  | nil => simp only [Memory.write]; split <;> simp_all [Memory.read]
  | cons d rest ih =>
    obtain ⟨k, u⟩ := d
    have hc := List.pairwise_cons.mp h.1
    have hrest : Memory.wf rest := ⟨hc.2, fun c hm => h.2 c (List.mem_cons_of_mem _ hm)⟩
    simp only [Memory.write]
    split
    · rename_i hlt
      split
      · rename_i hv
        have : Memory.read ((k, u) :: rest) a = 0 := Memory.read_of_not_listed fun c hm => by
          rcases List.mem_cons.mp hm with he | hr
          · simp only [he]; omega
          · have := hc.1 c hr
            simp only at this
            omega
        rw [this, hv]; rfl
      · simp [Memory.read]
    · split
      · rename_i heq
        split
        · rename_i hv
          rw [Memory.read_of_not_listed fun c hm => by have := hc.1 c hm; simp only at this; omega, hv]; rfl
        · simp [Memory.read]
      · rename_i hne
        simp [Memory.read, Ne.symm hne, ih hrest]

/-- Two memories in canonical form with the same contents are the same data. -/
theorem Memory.ext_of_read {m n : Memory} (hm : m.wf) (hn : n.wf) (h : ∀ a, m.read a = n.read a) : m = n := by
  have sub : ∀ {p q : Memory}, p.wf → q.wf → (∀ a, p.read a = q.read a) → p ⊆ q := by
    intro p q hp _ hpq c hc
    have hr := Memory.read_of_mem hp hc
    have hne : q.read c.1 ≠ 0 := by rw [← hpq, hr]; exact (hp.2 c hc).2
    have := Memory.listed_of_read_ne hne
    rwa [← hpq, hr] at this
  have nodup : ∀ {p : Memory}, p.wf → p.Nodup := fun hp =>
    hp.1.imp fun hlt he => by simp [he] at hlt
  have hperm : m.Perm n := (List.perm_ext_iff_of_nodup (nodup hm) (nodup hn)).mpr fun c =>
    ⟨fun hc => sub hm hn h hc, fun hc => sub hn hm (fun a => (h a).symm) hc⟩
  exact hperm.eq_of_pairwise (fun a b _ _ hab hba => absurd (Nat.lt_trans hab hba) (Nat.lt_irrefl _)) hm.1 hn.1

/-- The memory of reset and of power-on lists nothing and is in canonical form. -/
theorem reset_memory_wf : State.reset.mem.wf ∧ State.powerOn.mem.wf := by decide

end Sys2Proof.Machine
end

