-- ==== Sys2Proof/Laws/State.lean ====
section
/-! SUPPORT. One lemma per field per named update of State, each true by rfl: no later proof unfolds a record update. -/

namespace Sys2Proof.Machine

/-! ### `setAc` -/

@[simp] theorem setAc_ac (s : State) (v : Word) : (s.setAc v).ac = v := rfl
@[simp] theorem setAc_mar (s : State) (v : Word) : (s.setAc v).mar = s.mar := rfl
@[simp] theorem setAc_mbr (s : State) (v : Word) : (s.setAc v).mbr = s.mbr := rfl
@[simp] theorem setAc_pc (s : State) (v : Word) : (s.setAc v).pc = s.pc := rfl
@[simp] theorem setAc_ir (s : State) (v : Word) : (s.setAc v).ir = s.ir := rfl
@[simp] theorem setAc_inReg (s : State) (v : Word) : (s.setAc v).inReg = s.inReg := rfl
@[simp] theorem setAc_outReg (s : State) (v : Word) : (s.setAc v).outReg = s.outReg := rfl
@[simp] theorem setAc_halted (s : State) (v : Word) : (s.setAc v).halted = s.halted := rfl
@[simp] theorem setAc_runState (s : State) (v : Word) : (s.setAc v).runState = s.runState := rfl
@[simp] theorem setAc_fault (s : State) (v : Word) : (s.setAc v).fault = s.fault := rfl
@[simp] theorem setAc_mem (s : State) (v : Word) : (s.setAc v).mem = s.mem := rfl
@[simp] theorem setAc_head (s : State) (v : Word) : (s.setAc v).head = s.head := rfl
@[simp] theorem setAc_out (s : State) (v : Word) : (s.setAc v).out = s.out := rfl
@[simp] theorem setAc_mode (s : State) (v : Word) : (s.setAc v).mode = s.mode := rfl
@[simp] theorem setAc_atGate (s : State) (v : Word) : (s.setAc v).atGate = s.atGate := rfl
@[simp] theorem setAc_inputs (s : State) (v : Word) : (s.setAc v).inputs = s.inputs := rfl
@[simp] theorem setAc_draws (s : State) (v : Word) : (s.setAc v).draws = s.draws := rfl

/-! ### `setMar` -/

@[simp] theorem setMar_ac (s : State) (v : Word) : (s.setMar v).ac = s.ac := rfl
@[simp] theorem setMar_mar (s : State) (v : Word) : (s.setMar v).mar = v := rfl
@[simp] theorem setMar_mbr (s : State) (v : Word) : (s.setMar v).mbr = s.mbr := rfl
@[simp] theorem setMar_pc (s : State) (v : Word) : (s.setMar v).pc = s.pc := rfl
@[simp] theorem setMar_ir (s : State) (v : Word) : (s.setMar v).ir = s.ir := rfl
@[simp] theorem setMar_inReg (s : State) (v : Word) : (s.setMar v).inReg = s.inReg := rfl
@[simp] theorem setMar_outReg (s : State) (v : Word) : (s.setMar v).outReg = s.outReg := rfl
@[simp] theorem setMar_halted (s : State) (v : Word) : (s.setMar v).halted = s.halted := rfl
@[simp] theorem setMar_runState (s : State) (v : Word) : (s.setMar v).runState = s.runState := rfl
@[simp] theorem setMar_fault (s : State) (v : Word) : (s.setMar v).fault = s.fault := rfl
@[simp] theorem setMar_mem (s : State) (v : Word) : (s.setMar v).mem = s.mem := rfl
@[simp] theorem setMar_head (s : State) (v : Word) : (s.setMar v).head = s.head := rfl
@[simp] theorem setMar_out (s : State) (v : Word) : (s.setMar v).out = s.out := rfl
@[simp] theorem setMar_mode (s : State) (v : Word) : (s.setMar v).mode = s.mode := rfl
@[simp] theorem setMar_atGate (s : State) (v : Word) : (s.setMar v).atGate = s.atGate := rfl
@[simp] theorem setMar_inputs (s : State) (v : Word) : (s.setMar v).inputs = s.inputs := rfl
@[simp] theorem setMar_draws (s : State) (v : Word) : (s.setMar v).draws = s.draws := rfl

/-! ### `setMbr` -/

@[simp] theorem setMbr_ac (s : State) (v : Word) : (s.setMbr v).ac = s.ac := rfl
@[simp] theorem setMbr_mar (s : State) (v : Word) : (s.setMbr v).mar = s.mar := rfl
@[simp] theorem setMbr_mbr (s : State) (v : Word) : (s.setMbr v).mbr = v := rfl
@[simp] theorem setMbr_pc (s : State) (v : Word) : (s.setMbr v).pc = s.pc := rfl
@[simp] theorem setMbr_ir (s : State) (v : Word) : (s.setMbr v).ir = s.ir := rfl
@[simp] theorem setMbr_inReg (s : State) (v : Word) : (s.setMbr v).inReg = s.inReg := rfl
@[simp] theorem setMbr_outReg (s : State) (v : Word) : (s.setMbr v).outReg = s.outReg := rfl
@[simp] theorem setMbr_halted (s : State) (v : Word) : (s.setMbr v).halted = s.halted := rfl
@[simp] theorem setMbr_runState (s : State) (v : Word) : (s.setMbr v).runState = s.runState := rfl
@[simp] theorem setMbr_fault (s : State) (v : Word) : (s.setMbr v).fault = s.fault := rfl
@[simp] theorem setMbr_mem (s : State) (v : Word) : (s.setMbr v).mem = s.mem := rfl
@[simp] theorem setMbr_head (s : State) (v : Word) : (s.setMbr v).head = s.head := rfl
@[simp] theorem setMbr_out (s : State) (v : Word) : (s.setMbr v).out = s.out := rfl
@[simp] theorem setMbr_mode (s : State) (v : Word) : (s.setMbr v).mode = s.mode := rfl
@[simp] theorem setMbr_atGate (s : State) (v : Word) : (s.setMbr v).atGate = s.atGate := rfl
@[simp] theorem setMbr_inputs (s : State) (v : Word) : (s.setMbr v).inputs = s.inputs := rfl
@[simp] theorem setMbr_draws (s : State) (v : Word) : (s.setMbr v).draws = s.draws := rfl

/-! ### `setPc` -/

@[simp] theorem setPc_ac (s : State) (v : Word) : (s.setPc v).ac = s.ac := rfl
@[simp] theorem setPc_mar (s : State) (v : Word) : (s.setPc v).mar = s.mar := rfl
@[simp] theorem setPc_mbr (s : State) (v : Word) : (s.setPc v).mbr = s.mbr := rfl
@[simp] theorem setPc_pc (s : State) (v : Word) : (s.setPc v).pc = v := rfl
@[simp] theorem setPc_ir (s : State) (v : Word) : (s.setPc v).ir = s.ir := rfl
@[simp] theorem setPc_inReg (s : State) (v : Word) : (s.setPc v).inReg = s.inReg := rfl
@[simp] theorem setPc_outReg (s : State) (v : Word) : (s.setPc v).outReg = s.outReg := rfl
@[simp] theorem setPc_halted (s : State) (v : Word) : (s.setPc v).halted = s.halted := rfl
@[simp] theorem setPc_runState (s : State) (v : Word) : (s.setPc v).runState = s.runState := rfl
@[simp] theorem setPc_fault (s : State) (v : Word) : (s.setPc v).fault = s.fault := rfl
@[simp] theorem setPc_mem (s : State) (v : Word) : (s.setPc v).mem = s.mem := rfl
@[simp] theorem setPc_head (s : State) (v : Word) : (s.setPc v).head = s.head := rfl
@[simp] theorem setPc_out (s : State) (v : Word) : (s.setPc v).out = s.out := rfl
@[simp] theorem setPc_mode (s : State) (v : Word) : (s.setPc v).mode = s.mode := rfl
@[simp] theorem setPc_atGate (s : State) (v : Word) : (s.setPc v).atGate = s.atGate := rfl
@[simp] theorem setPc_inputs (s : State) (v : Word) : (s.setPc v).inputs = s.inputs := rfl
@[simp] theorem setPc_draws (s : State) (v : Word) : (s.setPc v).draws = s.draws := rfl

/-! ### `setIr` -/

@[simp] theorem setIr_ac (s : State) (v : Word) : (s.setIr v).ac = s.ac := rfl
@[simp] theorem setIr_mar (s : State) (v : Word) : (s.setIr v).mar = s.mar := rfl
@[simp] theorem setIr_mbr (s : State) (v : Word) : (s.setIr v).mbr = s.mbr := rfl
@[simp] theorem setIr_pc (s : State) (v : Word) : (s.setIr v).pc = s.pc := rfl
@[simp] theorem setIr_ir (s : State) (v : Word) : (s.setIr v).ir = v := rfl
@[simp] theorem setIr_inReg (s : State) (v : Word) : (s.setIr v).inReg = s.inReg := rfl
@[simp] theorem setIr_outReg (s : State) (v : Word) : (s.setIr v).outReg = s.outReg := rfl
@[simp] theorem setIr_halted (s : State) (v : Word) : (s.setIr v).halted = s.halted := rfl
@[simp] theorem setIr_runState (s : State) (v : Word) : (s.setIr v).runState = s.runState := rfl
@[simp] theorem setIr_fault (s : State) (v : Word) : (s.setIr v).fault = s.fault := rfl
@[simp] theorem setIr_mem (s : State) (v : Word) : (s.setIr v).mem = s.mem := rfl
@[simp] theorem setIr_head (s : State) (v : Word) : (s.setIr v).head = s.head := rfl
@[simp] theorem setIr_out (s : State) (v : Word) : (s.setIr v).out = s.out := rfl
@[simp] theorem setIr_mode (s : State) (v : Word) : (s.setIr v).mode = s.mode := rfl
@[simp] theorem setIr_atGate (s : State) (v : Word) : (s.setIr v).atGate = s.atGate := rfl
@[simp] theorem setIr_inputs (s : State) (v : Word) : (s.setIr v).inputs = s.inputs := rfl
@[simp] theorem setIr_draws (s : State) (v : Word) : (s.setIr v).draws = s.draws := rfl

/-! ### `setInReg` -/

@[simp] theorem setInReg_ac (s : State) (v : Word) : (s.setInReg v).ac = s.ac := rfl
@[simp] theorem setInReg_mar (s : State) (v : Word) : (s.setInReg v).mar = s.mar := rfl
@[simp] theorem setInReg_mbr (s : State) (v : Word) : (s.setInReg v).mbr = s.mbr := rfl
@[simp] theorem setInReg_pc (s : State) (v : Word) : (s.setInReg v).pc = s.pc := rfl
@[simp] theorem setInReg_ir (s : State) (v : Word) : (s.setInReg v).ir = s.ir := rfl
@[simp] theorem setInReg_inReg (s : State) (v : Word) : (s.setInReg v).inReg = v := rfl
@[simp] theorem setInReg_outReg (s : State) (v : Word) : (s.setInReg v).outReg = s.outReg := rfl
@[simp] theorem setInReg_halted (s : State) (v : Word) : (s.setInReg v).halted = s.halted := rfl
@[simp] theorem setInReg_runState (s : State) (v : Word) : (s.setInReg v).runState = s.runState := rfl
@[simp] theorem setInReg_fault (s : State) (v : Word) : (s.setInReg v).fault = s.fault := rfl
@[simp] theorem setInReg_mem (s : State) (v : Word) : (s.setInReg v).mem = s.mem := rfl
@[simp] theorem setInReg_head (s : State) (v : Word) : (s.setInReg v).head = s.head := rfl
@[simp] theorem setInReg_out (s : State) (v : Word) : (s.setInReg v).out = s.out := rfl
@[simp] theorem setInReg_mode (s : State) (v : Word) : (s.setInReg v).mode = s.mode := rfl
@[simp] theorem setInReg_atGate (s : State) (v : Word) : (s.setInReg v).atGate = s.atGate := rfl
@[simp] theorem setInReg_inputs (s : State) (v : Word) : (s.setInReg v).inputs = s.inputs := rfl
@[simp] theorem setInReg_draws (s : State) (v : Word) : (s.setInReg v).draws = s.draws := rfl

/-! ### `setOutReg` -/

@[simp] theorem setOutReg_ac (s : State) (v : Word) : (s.setOutReg v).ac = s.ac := rfl
@[simp] theorem setOutReg_mar (s : State) (v : Word) : (s.setOutReg v).mar = s.mar := rfl
@[simp] theorem setOutReg_mbr (s : State) (v : Word) : (s.setOutReg v).mbr = s.mbr := rfl
@[simp] theorem setOutReg_pc (s : State) (v : Word) : (s.setOutReg v).pc = s.pc := rfl
@[simp] theorem setOutReg_ir (s : State) (v : Word) : (s.setOutReg v).ir = s.ir := rfl
@[simp] theorem setOutReg_inReg (s : State) (v : Word) : (s.setOutReg v).inReg = s.inReg := rfl
@[simp] theorem setOutReg_outReg (s : State) (v : Word) : (s.setOutReg v).outReg = v := rfl
@[simp] theorem setOutReg_halted (s : State) (v : Word) : (s.setOutReg v).halted = s.halted := rfl
@[simp] theorem setOutReg_runState (s : State) (v : Word) : (s.setOutReg v).runState = s.runState := rfl
@[simp] theorem setOutReg_fault (s : State) (v : Word) : (s.setOutReg v).fault = s.fault := rfl
@[simp] theorem setOutReg_mem (s : State) (v : Word) : (s.setOutReg v).mem = s.mem := rfl
@[simp] theorem setOutReg_head (s : State) (v : Word) : (s.setOutReg v).head = s.head := rfl
@[simp] theorem setOutReg_out (s : State) (v : Word) : (s.setOutReg v).out = s.out := rfl
@[simp] theorem setOutReg_mode (s : State) (v : Word) : (s.setOutReg v).mode = s.mode := rfl
@[simp] theorem setOutReg_atGate (s : State) (v : Word) : (s.setOutReg v).atGate = s.atGate := rfl
@[simp] theorem setOutReg_inputs (s : State) (v : Word) : (s.setOutReg v).inputs = s.inputs := rfl
@[simp] theorem setOutReg_draws (s : State) (v : Word) : (s.setOutReg v).draws = s.draws := rfl

/-! ### `emit` -/

@[simp] theorem emit_ac (s : State) (v : Word) : (s.emit v).ac = s.ac := rfl
@[simp] theorem emit_mar (s : State) (v : Word) : (s.emit v).mar = s.mar := rfl
@[simp] theorem emit_mbr (s : State) (v : Word) : (s.emit v).mbr = s.mbr := rfl
@[simp] theorem emit_pc (s : State) (v : Word) : (s.emit v).pc = s.pc := rfl
@[simp] theorem emit_ir (s : State) (v : Word) : (s.emit v).ir = s.ir := rfl
@[simp] theorem emit_inReg (s : State) (v : Word) : (s.emit v).inReg = s.inReg := rfl
@[simp] theorem emit_outReg (s : State) (v : Word) : (s.emit v).outReg = s.outReg := rfl
@[simp] theorem emit_halted (s : State) (v : Word) : (s.emit v).halted = s.halted := rfl
@[simp] theorem emit_runState (s : State) (v : Word) : (s.emit v).runState = s.runState := rfl
@[simp] theorem emit_fault (s : State) (v : Word) : (s.emit v).fault = s.fault := rfl
@[simp] theorem emit_mem (s : State) (v : Word) : (s.emit v).mem = s.mem := rfl
@[simp] theorem emit_head (s : State) (v : Word) : (s.emit v).head = s.head := rfl
@[simp] theorem emit_out (s : State) (v : Word) : (s.emit v).out = s.out ++ [v] := rfl
@[simp] theorem emit_mode (s : State) (v : Word) : (s.emit v).mode = s.mode := rfl
@[simp] theorem emit_atGate (s : State) (v : Word) : (s.emit v).atGate = s.atGate := rfl
@[simp] theorem emit_inputs (s : State) (v : Word) : (s.emit v).inputs = s.inputs := rfl
@[simp] theorem emit_draws (s : State) (v : Word) : (s.emit v).draws = s.draws := rfl

/-! ### `setHalted` -/

@[simp] theorem setHalted_ac (s : State) : s.setHalted.ac = s.ac := rfl
@[simp] theorem setHalted_mar (s : State) : s.setHalted.mar = s.mar := rfl
@[simp] theorem setHalted_mbr (s : State) : s.setHalted.mbr = s.mbr := rfl
@[simp] theorem setHalted_pc (s : State) : s.setHalted.pc = s.pc := rfl
@[simp] theorem setHalted_ir (s : State) : s.setHalted.ir = s.ir := rfl
@[simp] theorem setHalted_inReg (s : State) : s.setHalted.inReg = s.inReg := rfl
@[simp] theorem setHalted_outReg (s : State) : s.setHalted.outReg = s.outReg := rfl
@[simp] theorem setHalted_halted (s : State) : s.setHalted.halted = true := rfl
@[simp] theorem setHalted_runState (s : State) : s.setHalted.runState = s.runState := rfl
@[simp] theorem setHalted_fault (s : State) : s.setHalted.fault = s.fault := rfl
@[simp] theorem setHalted_mem (s : State) : s.setHalted.mem = s.mem := rfl
@[simp] theorem setHalted_head (s : State) : s.setHalted.head = s.head := rfl
@[simp] theorem setHalted_out (s : State) : s.setHalted.out = s.out := rfl
@[simp] theorem setHalted_mode (s : State) : s.setHalted.mode = s.mode := rfl
@[simp] theorem setHalted_atGate (s : State) : s.setHalted.atGate = s.atGate := rfl
@[simp] theorem setHalted_inputs (s : State) : s.setHalted.inputs = s.inputs := rfl
@[simp] theorem setHalted_draws (s : State) : s.setHalted.draws = s.draws := rfl

/-! ### `setRunState` -/

@[simp] theorem setRunState_ac (s : State) (r : RunState) : (s.setRunState r).ac = s.ac := rfl
@[simp] theorem setRunState_mar (s : State) (r : RunState) : (s.setRunState r).mar = s.mar := rfl
@[simp] theorem setRunState_mbr (s : State) (r : RunState) : (s.setRunState r).mbr = s.mbr := rfl
@[simp] theorem setRunState_pc (s : State) (r : RunState) : (s.setRunState r).pc = s.pc := rfl
@[simp] theorem setRunState_ir (s : State) (r : RunState) : (s.setRunState r).ir = s.ir := rfl
@[simp] theorem setRunState_inReg (s : State) (r : RunState) : (s.setRunState r).inReg = s.inReg := rfl
@[simp] theorem setRunState_outReg (s : State) (r : RunState) : (s.setRunState r).outReg = s.outReg := rfl
@[simp] theorem setRunState_halted (s : State) (r : RunState) : (s.setRunState r).halted = s.halted := rfl
@[simp] theorem setRunState_runState (s : State) (r : RunState) : (s.setRunState r).runState = r := rfl
@[simp] theorem setRunState_fault (s : State) (r : RunState) : (s.setRunState r).fault = s.fault := rfl
@[simp] theorem setRunState_mem (s : State) (r : RunState) : (s.setRunState r).mem = s.mem := rfl
@[simp] theorem setRunState_head (s : State) (r : RunState) : (s.setRunState r).head = s.head := rfl
@[simp] theorem setRunState_out (s : State) (r : RunState) : (s.setRunState r).out = s.out := rfl
@[simp] theorem setRunState_mode (s : State) (r : RunState) : (s.setRunState r).mode = s.mode := rfl
@[simp] theorem setRunState_atGate (s : State) (r : RunState) : (s.setRunState r).atGate = s.atGate := rfl
@[simp] theorem setRunState_inputs (s : State) (r : RunState) : (s.setRunState r).inputs = s.inputs := rfl
@[simp] theorem setRunState_draws (s : State) (r : RunState) : (s.setRunState r).draws = s.draws := rfl

/-! ### `reachGate` -/

@[simp] theorem reachGate_ac (s : State) : s.reachGate.ac = s.ac := rfl
@[simp] theorem reachGate_mar (s : State) : s.reachGate.mar = s.mar := rfl
@[simp] theorem reachGate_mbr (s : State) : s.reachGate.mbr = s.mbr := rfl
@[simp] theorem reachGate_pc (s : State) : s.reachGate.pc = s.pc := rfl
@[simp] theorem reachGate_ir (s : State) : s.reachGate.ir = s.ir := rfl
@[simp] theorem reachGate_inReg (s : State) : s.reachGate.inReg = s.inReg := rfl
@[simp] theorem reachGate_outReg (s : State) : s.reachGate.outReg = s.outReg := rfl
@[simp] theorem reachGate_halted (s : State) : s.reachGate.halted = s.halted := rfl
@[simp] theorem reachGate_runState (s : State) : s.reachGate.runState = s.runState := rfl
@[simp] theorem reachGate_fault (s : State) : s.reachGate.fault = s.fault := rfl
@[simp] theorem reachGate_mem (s : State) : s.reachGate.mem = s.mem := rfl
@[simp] theorem reachGate_head (s : State) : s.reachGate.head = s.head := rfl
@[simp] theorem reachGate_out (s : State) : s.reachGate.out = s.out := rfl
@[simp] theorem reachGate_mode (s : State) : s.reachGate.mode = s.mode := rfl
@[simp] theorem reachGate_atGate (s : State) : s.reachGate.atGate = true := rfl
@[simp] theorem reachGate_inputs (s : State) : s.reachGate.inputs = s.inputs := rfl
@[simp] theorem reachGate_draws (s : State) : s.reachGate.draws = s.draws := rfl

/-! ### `writeWord` -/

@[simp] theorem writeWord_ac (s : State) (addr : Nat) (v : Word) : (s.writeWord addr v).ac = s.ac := rfl
@[simp] theorem writeWord_mar (s : State) (addr : Nat) (v : Word) : (s.writeWord addr v).mar = s.mar := rfl
@[simp] theorem writeWord_mbr (s : State) (addr : Nat) (v : Word) : (s.writeWord addr v).mbr = s.mbr := rfl
@[simp] theorem writeWord_pc (s : State) (addr : Nat) (v : Word) : (s.writeWord addr v).pc = s.pc := rfl
@[simp] theorem writeWord_ir (s : State) (addr : Nat) (v : Word) : (s.writeWord addr v).ir = s.ir := rfl
@[simp] theorem writeWord_inReg (s : State) (addr : Nat) (v : Word) : (s.writeWord addr v).inReg = s.inReg := rfl
@[simp] theorem writeWord_outReg (s : State) (addr : Nat) (v : Word) : (s.writeWord addr v).outReg = s.outReg := rfl
@[simp] theorem writeWord_halted (s : State) (addr : Nat) (v : Word) : (s.writeWord addr v).halted = s.halted := rfl
@[simp] theorem writeWord_runState (s : State) (addr : Nat) (v : Word) : (s.writeWord addr v).runState = s.runState := rfl
@[simp] theorem writeWord_fault (s : State) (addr : Nat) (v : Word) : (s.writeWord addr v).fault = s.fault := rfl
@[simp] theorem writeWord_mem (s : State) (addr : Nat) (v : Word) : (s.writeWord addr v).mem = s.mem.write addr v := rfl
@[simp] theorem writeWord_head (s : State) (addr : Nat) (v : Word) : (s.writeWord addr v).head = if s.head.toNat < addr then BitVec.ofNat 12 addr else s.head := rfl
@[simp] theorem writeWord_out (s : State) (addr : Nat) (v : Word) : (s.writeWord addr v).out = s.out := rfl
@[simp] theorem writeWord_mode (s : State) (addr : Nat) (v : Word) : (s.writeWord addr v).mode = s.mode := rfl
@[simp] theorem writeWord_atGate (s : State) (addr : Nat) (v : Word) : (s.writeWord addr v).atGate = s.atGate := rfl
@[simp] theorem writeWord_inputs (s : State) (addr : Nat) (v : Word) : (s.writeWord addr v).inputs = s.inputs := rfl
@[simp] theorem writeWord_draws (s : State) (addr : Nat) (v : Word) : (s.writeWord addr v).draws = s.draws := rfl

/-! ### `recordFault` -/

@[simp] theorem recordFault_ac (s : State) (e : FatalError) : (s.recordFault e).ac = s.ac := rfl
@[simp] theorem recordFault_mar (s : State) (e : FatalError) : (s.recordFault e).mar = s.mar := rfl
@[simp] theorem recordFault_mbr (s : State) (e : FatalError) : (s.recordFault e).mbr = s.mbr := rfl
@[simp] theorem recordFault_pc (s : State) (e : FatalError) : (s.recordFault e).pc = s.pc := rfl
@[simp] theorem recordFault_ir (s : State) (e : FatalError) : (s.recordFault e).ir = s.ir := rfl
@[simp] theorem recordFault_inReg (s : State) (e : FatalError) : (s.recordFault e).inReg = s.inReg := rfl
@[simp] theorem recordFault_outReg (s : State) (e : FatalError) : (s.recordFault e).outReg = s.outReg := rfl
@[simp] theorem recordFault_halted (s : State) (e : FatalError) : (s.recordFault e).halted = s.halted := rfl
@[simp] theorem recordFault_runState (s : State) (e : FatalError) : (s.recordFault e).runState = .faulted := rfl
@[simp] theorem recordFault_fault (s : State) (e : FatalError) : (s.recordFault e).fault = some e := rfl
@[simp] theorem recordFault_mem (s : State) (e : FatalError) : (s.recordFault e).mem = s.mem := rfl
@[simp] theorem recordFault_head (s : State) (e : FatalError) : (s.recordFault e).head = s.head := rfl
@[simp] theorem recordFault_out (s : State) (e : FatalError) : (s.recordFault e).out = s.out := rfl
@[simp] theorem recordFault_mode (s : State) (e : FatalError) : (s.recordFault e).mode = s.mode := rfl
@[simp] theorem recordFault_atGate (s : State) (e : FatalError) : (s.recordFault e).atGate = s.atGate := rfl
@[simp] theorem recordFault_inputs (s : State) (e : FatalError) : (s.recordFault e).inputs = s.inputs := rfl
@[simp] theorem recordFault_draws (s : State) (e : FatalError) : (s.recordFault e).draws = s.draws := rfl

/-! ### `fetched` -/

@[simp] theorem fetched_ac (s : State) : s.fetched.ac = s.ac := rfl
@[simp] theorem fetched_mar (s : State) : s.fetched.mar = s.pc := rfl
@[simp] theorem fetched_mbr (s : State) : s.fetched.mbr = s.mem.read s.pc.toNat := rfl
@[simp] theorem fetched_pc (s : State) : s.fetched.pc = s.pc + 1 := rfl
@[simp] theorem fetched_ir (s : State) : s.fetched.ir = s.mem.read s.pc.toNat := rfl
@[simp] theorem fetched_inReg (s : State) : s.fetched.inReg = s.inReg := rfl
@[simp] theorem fetched_outReg (s : State) : s.fetched.outReg = s.outReg := rfl
@[simp] theorem fetched_halted (s : State) : s.fetched.halted = s.halted := rfl
@[simp] theorem fetched_runState (s : State) : s.fetched.runState = s.runState := rfl
@[simp] theorem fetched_fault (s : State) : s.fetched.fault = s.fault := rfl
@[simp] theorem fetched_mem (s : State) : s.fetched.mem = s.mem := rfl
@[simp] theorem fetched_head (s : State) : s.fetched.head = s.head := rfl
@[simp] theorem fetched_out (s : State) : s.fetched.out = s.out := rfl
@[simp] theorem fetched_mode (s : State) : s.fetched.mode = s.mode := rfl
@[simp] theorem fetched_atGate (s : State) : s.fetched.atGate = s.atGate := rfl
@[simp] theorem fetched_inputs (s : State) : s.fetched.inputs = s.inputs := rfl
@[simp] theorem fetched_draws (s : State) : s.fetched.draws = s.draws := rfl

/-! ### `asContinuous` -/

@[simp] theorem asContinuous_ac (s : State) : s.asContinuous.ac = s.ac := rfl
@[simp] theorem asContinuous_mar (s : State) : s.asContinuous.mar = s.mar := rfl
@[simp] theorem asContinuous_mbr (s : State) : s.asContinuous.mbr = s.mbr := rfl
@[simp] theorem asContinuous_pc (s : State) : s.asContinuous.pc = s.pc := rfl
@[simp] theorem asContinuous_ir (s : State) : s.asContinuous.ir = s.ir := rfl
@[simp] theorem asContinuous_inReg (s : State) : s.asContinuous.inReg = s.inReg := rfl
@[simp] theorem asContinuous_outReg (s : State) : s.asContinuous.outReg = s.outReg := rfl
@[simp] theorem asContinuous_halted (s : State) : s.asContinuous.halted = s.halted := rfl
@[simp] theorem asContinuous_runState (s : State) : s.asContinuous.runState = s.runState := rfl
@[simp] theorem asContinuous_fault (s : State) : s.asContinuous.fault = s.fault := rfl
@[simp] theorem asContinuous_mem (s : State) : s.asContinuous.mem = s.mem := rfl
@[simp] theorem asContinuous_head (s : State) : s.asContinuous.head = s.head := rfl
@[simp] theorem asContinuous_out (s : State) : s.asContinuous.out = s.out := rfl
@[simp] theorem asContinuous_mode (s : State) : s.asContinuous.mode = .continuous := rfl
@[simp] theorem asContinuous_atGate (s : State) : s.asContinuous.atGate = false := rfl
@[simp] theorem asContinuous_inputs (s : State) : s.asContinuous.inputs = s.inputs := rfl
@[simp] theorem asContinuous_draws (s : State) : s.asContinuous.draws = s.draws := rfl

/-! ### `latchOperand` and `runStart` -/

@[simp] theorem latchOperand_ac (s : State) (x : Operand) : (latchOperand s x).ac = s.ac := rfl
@[simp] theorem latchOperand_mar (s : State) (x : Operand) : (latchOperand s x).mar = zext16 x := rfl
@[simp] theorem latchOperand_mbr (s : State) (x : Operand) : (latchOperand s x).mbr = s.mbr := rfl
@[simp] theorem latchOperand_pc (s : State) (x : Operand) : (latchOperand s x).pc = s.pc := rfl
@[simp] theorem latchOperand_ir (s : State) (x : Operand) : (latchOperand s x).ir = s.ir := rfl
@[simp] theorem latchOperand_inReg (s : State) (x : Operand) : (latchOperand s x).inReg = s.inReg := rfl
@[simp] theorem latchOperand_outReg (s : State) (x : Operand) : (latchOperand s x).outReg = s.outReg := rfl
@[simp] theorem latchOperand_halted (s : State) (x : Operand) : (latchOperand s x).halted = s.halted := rfl
@[simp] theorem latchOperand_runState (s : State) (x : Operand) : (latchOperand s x).runState = s.runState := rfl
@[simp] theorem latchOperand_fault (s : State) (x : Operand) : (latchOperand s x).fault = s.fault := rfl
@[simp] theorem latchOperand_mem (s : State) (x : Operand) : (latchOperand s x).mem = s.mem := rfl
@[simp] theorem latchOperand_head (s : State) (x : Operand) : (latchOperand s x).head = s.head := rfl
@[simp] theorem latchOperand_out (s : State) (x : Operand) : (latchOperand s x).out = s.out := rfl
@[simp] theorem latchOperand_mode (s : State) (x : Operand) : (latchOperand s x).mode = s.mode := rfl
@[simp] theorem latchOperand_atGate (s : State) (x : Operand) : (latchOperand s x).atGate = s.atGate := rfl
@[simp] theorem latchOperand_inputs (s : State) (x : Operand) : (latchOperand s x).inputs = s.inputs := rfl
@[simp] theorem latchOperand_draws (s : State) (x : Operand) : (latchOperand s x).draws = s.draws := rfl

@[simp] theorem runStart_ac (s : State) (m : RunMode) : (runStart s m).ac = 0 := rfl
@[simp] theorem runStart_mar (s : State) (m : RunMode) : (runStart s m).mar = 0 := rfl
@[simp] theorem runStart_mbr (s : State) (m : RunMode) : (runStart s m).mbr = 0 := rfl
@[simp] theorem runStart_pc (s : State) (m : RunMode) : (runStart s m).pc = 0 := rfl
@[simp] theorem runStart_ir (s : State) (m : RunMode) : (runStart s m).ir = 0 := rfl
@[simp] theorem runStart_inReg (s : State) (m : RunMode) : (runStart s m).inReg = 0 := rfl
@[simp] theorem runStart_outReg (s : State) (m : RunMode) : (runStart s m).outReg = 0 := rfl
@[simp] theorem runStart_halted (s : State) (m : RunMode) : (runStart s m).halted = false := rfl
@[simp] theorem runStart_runState (s : State) (m : RunMode) : (runStart s m).runState = .running := rfl
@[simp] theorem runStart_fault (s : State) (m : RunMode) : (runStart s m).fault = none := rfl
@[simp] theorem runStart_mem (s : State) (m : RunMode) : (runStart s m).mem = s.mem := rfl
@[simp] theorem runStart_head (s : State) (m : RunMode) : (runStart s m).head = s.head := rfl
@[simp] theorem runStart_out (s : State) (m : RunMode) : (runStart s m).out = [] := rfl
@[simp] theorem runStart_mode (s : State) (m : RunMode) : (runStart s m).mode = m := rfl
@[simp] theorem runStart_atGate (s : State) (m : RunMode) : (runStart s m).atGate = false := rfl
@[simp] theorem runStart_inputs (s : State) (m : RunMode) : (runStart s m).inputs = s.inputs := rfl
@[simp] theorem runStart_draws (s : State) (m : RunMode) : (runStart s m).draws = s.draws := rfl

end Sys2Proof.Machine
end

