-- ==== Sys2Proof/Laws/Ops.lean ====
section
/-! SUPPORT. For each shared operation, one lemma that says everything it can do. The provers cite these instead of
unfolding the operations. -/

namespace Sys2Proof.Machine

/-! ### Bits -/

@[simp] theorem zext16_toNat (x : Operand) : (zext16 x).toNat = x.toNat := by
  have := x.isLt
  simp [zext16, BitVec.toNat_setWidth]
  omega

/-- A decoded operand is always a valid address (20_memory.md R51). -/
theorem operand_lt (x : Operand) : x.toNat < Config.memWords := x.isLt

theorem zext16_inj {x y : Operand} (h : zext16 x = zext16 y) : x = y := by
  have := congrArg BitVec.toNat h
  rw [zext16_toNat, zext16_toNat] at this
  exact BitVec.eq_of_toNat_eq this

/-- `signed16` is the two's-complement reading of core Lean. -/
theorem signed16_eq_toInt (v : Word) : signed16 v = v.toInt := by
  have := v.isLt
  simp only [signed16, BitVec.toInt_eq_toNat_cond]
  split <;> split <;> omega

theorem aluAdd_eq (a b : Word) : aluAdd a b = a + b := by
  apply BitVec.eq_of_toNat_eq
  simp [aluAdd]

theorem aluSub_eq (a b : Word) : aluSub a b = a - b := by
  apply BitVec.eq_of_toInt_eq
  rw [aluSub, BitVec.toInt_ofInt, BitVec.toInt_sub, BitVec.toInt_eq_toNat_bmod, BitVec.toInt_eq_toNat_bmod]
  simp

/-! ### Memory primitives -/

theorem memRead_of_lt {m : Memory} {a : Nat} (h : a < Config.memWords) : memRead m a = .ok (m.read a) := by
  simp [memRead, Nat.not_le.mpr h]

theorem memRead_of_ge {m : Memory} {a : Nat} (h : Config.memWords ≤ a) :
    memRead m a = .error (.addressOutOfBounds a) := by
  simp [memRead, h]

theorem withRead_of_lt {s : State} {addr : Word} {rest : Word → Result} (h : addr.toNat < Config.memWords) :
    withRead s addr rest = rest (s.mem.read addr.toNat) := by
  simp [withRead, memRead_of_lt h]

theorem withRead_of_ge {s : State} {addr : Word} {rest : Word → Result} (h : Config.memWords ≤ addr.toNat) :
    withRead s addr rest = .next (s.recordFault (.addressOutOfBounds addr.toNat)) := by
  simp [withRead, memRead_of_ge h, raise]

theorem memWrite_of_le {s : State} {a v : Nat} (ha : a < Config.memWords) (hv : v ≤ Config.maxWord) :
    memWrite s a v = .ok (s.writeWord a (BitVec.ofNat 16 v)) := by
  simp [memWrite, Nat.not_le.mpr ha, Nat.not_lt.mpr hv]

/-- A store made by an instruction cannot overflow (60_exceptions.md R203). -/
theorem withWrite_of_lt {s : State} {addr v : Word} {rest : State → Result} (h : addr.toNat < Config.memWords) :
    withWrite s addr v rest = rest (s.writeWord addr.toNat v) := by
  have hv : v.toNat ≤ Config.maxWord := Nat.le_of_lt_succ v.isLt
  simp [withWrite, memWrite_of_le h hv]

/-- The direct operand word through MBR. -/
theorem withDirectOperand_of_lt {s : State} {rest : State → Result} (h : s.mar.toNat < Config.memWords) :
    withDirectOperand s rest = rest (s.setMbr (s.mem.read s.mar.toNat)) := withRead_of_lt h

theorem withDirectOperand_of_ge {s : State} {rest : State → Result} (h : Config.memWords ≤ s.mar.toNat) :
    withDirectOperand s rest = .next (s.recordFault (.addressOutOfBounds s.mar.toNat)) := withRead_of_ge h

/-- HEAD after a write is the greater of HEAD and the address (20_memory.md R54). -/
theorem writeWord_head_toNat (s : State) {a : Nat} (v : Word) (h : a < Config.memWords) :
    (s.writeWord a v).head.toNat = max s.head.toNat a := by
  simp only [writeWord_head]
  split
  · simp only [BitVec.toNat_ofNat]; rw [Nat.mod_eq_of_lt h]; omega
  · omega

/-! ### Fetch and the run loop -/

/-- What a Fetch does: it latches the word at PC, or it raises with only MAR written (40_instruction_cycle.md R131,
R140). -/
theorem fetch_of_lt {s : State} {rest : State → Result} (h : s.pc.toNat < Config.memWords) :
    fetch s rest = rest s.fetched := withRead_of_lt (s := s.setMar s.pc) h

theorem fetch_of_ge {s : State} {rest : State → Result} (h : Config.memWords ≤ s.pc.toNat) :
    fetch s rest = .next ((s.setMar s.pc).recordFault (.addressOutOfBounds s.pc.toNat)) :=
  withRead_of_ge (s := s.setMar s.pc) h

@[simp] theorem endCycle_next (s : State) : endCycle (.next s) = .next (finishCycle s) := rfl

theorem endCycle_eq_next {r : Result} {t : State} (h : endCycle r = .next t) :
    ∃ u, r = .next u ∧ t = finishCycle u := by
  cases r with
  | next u => exact ⟨u, rfl, by simpa [endCycle] using h.symm⟩
  | fault r => simp [endCycle] at h
  | refused r => simp [endCycle] at h

/-- Everything the end of a cycle can do (40_instruction_cycle.md R130). -/
theorem finishCycle_cases (s : State) :
    (s.runState = .faulted ∧ finishCycle s = s) ∨
    (s.runState ≠ .faulted ∧ s.halted = true ∧ finishCycle s = s.setRunState .halted) ∨
    (s.runState ≠ .faulted ∧ s.halted = false ∧ s.mode = .singleStep ∧ finishCycle s = s.reachGate) ∨
    (s.runState ≠ .faulted ∧ s.halted = false ∧ s.mode = .continuous ∧ finishCycle s = s) := by
  unfold finishCycle
  cases hm : s.mode <;> cases hh : s.halted <;> by_cases hf : s.runState = .faulted <;> simp [hf]

theorem runCycle_of_ready {s : State} {f : State → Result} (h : s.Ready) : runCycle s f = endCycle (f s.fetched) := by
  simp [runCycle, h.1, h.2.1, fetch_of_lt h.2.2]

/-- Everything a turn of the run loop that has a successor can be: a Fetch that faults, or a completed
Decode+Execute. -/
theorem runCycle_eq_next {s t : State} {f : State → Result} (h : runCycle s f = .next t) :
    s.runState = .running ∧ s.atGate = false ∧
    ((Config.memWords ≤ s.pc.toNat ∧ t = (s.setMar s.pc).recordFault (.addressOutOfBounds s.pc.toNat)) ∨
      (s.pc.toNat < Config.memWords ∧ ∃ u, f s.fetched = .next u ∧ t = finishCycle u)) := by
  unfold runCycle at h
  split at h
  · rename_i hr
    split at h
    · simp at h
    · rename_i hg
      refine ⟨hr, by simpa using hg, ?_⟩
      by_cases hp : s.pc.toNat < Config.memWords
      · rw [fetch_of_lt hp] at h
        exact .inr ⟨hp, endCycle_eq_next h⟩
      · rw [fetch_of_ge (Nat.not_lt.mp hp)] at h
        exact .inl ⟨Nat.not_lt.mp hp, by simpa using h.symm⟩
  · simp at h

/-! ### The fields the end of a cycle keeps -/

@[simp] theorem finishCycle_ac (s : State) : (finishCycle s).ac = s.ac := by unfold finishCycle; split_ifs <;> rfl
@[simp] theorem finishCycle_mar (s : State) : (finishCycle s).mar = s.mar := by unfold finishCycle; split_ifs <;> rfl
@[simp] theorem finishCycle_mbr (s : State) : (finishCycle s).mbr = s.mbr := by unfold finishCycle; split_ifs <;> rfl
@[simp] theorem finishCycle_pc (s : State) : (finishCycle s).pc = s.pc := by unfold finishCycle; split_ifs <;> rfl
@[simp] theorem finishCycle_ir (s : State) : (finishCycle s).ir = s.ir := by unfold finishCycle; split_ifs <;> rfl
@[simp] theorem finishCycle_inReg (s : State) : (finishCycle s).inReg = s.inReg := by
  unfold finishCycle; split_ifs <;> rfl
@[simp] theorem finishCycle_outReg (s : State) : (finishCycle s).outReg = s.outReg := by
  unfold finishCycle; split_ifs <;> rfl
@[simp] theorem finishCycle_halted (s : State) : (finishCycle s).halted = s.halted := by
  unfold finishCycle; split_ifs <;> rfl
@[simp] theorem finishCycle_fault (s : State) : (finishCycle s).fault = s.fault := by
  unfold finishCycle; split_ifs <;> rfl
@[simp] theorem finishCycle_mem (s : State) : (finishCycle s).mem = s.mem := by unfold finishCycle; split_ifs <;> rfl
@[simp] theorem finishCycle_head (s : State) : (finishCycle s).head = s.head := by
  unfold finishCycle; split_ifs <;> rfl
@[simp] theorem finishCycle_out (s : State) : (finishCycle s).out = s.out := by unfold finishCycle; split_ifs <;> rfl
@[simp] theorem finishCycle_mode (s : State) : (finishCycle s).mode = s.mode := by
  unfold finishCycle; split_ifs <;> rfl
@[simp] theorem finishCycle_inputs (s : State) : (finishCycle s).inputs = s.inputs := by
  unfold finishCycle; split_ifs <;> rfl
@[simp] theorem finishCycle_draws (s : State) : (finishCycle s).draws = s.draws := by
  unfold finishCycle; split_ifs <;> rfl

/-! ### Input -/

/-! Taking an answer changes the answers and the draw counter only. -/

@[simp] theorem takeAnswer_ac (s : State) : (takeAnswer s).ac = s.ac := by unfold takeAnswer; split <;> rfl
@[simp] theorem takeAnswer_mar (s : State) : (takeAnswer s).mar = s.mar := by unfold takeAnswer; split <;> rfl
@[simp] theorem takeAnswer_mbr (s : State) : (takeAnswer s).mbr = s.mbr := by unfold takeAnswer; split <;> rfl
@[simp] theorem takeAnswer_pc (s : State) : (takeAnswer s).pc = s.pc := by unfold takeAnswer; split <;> rfl
@[simp] theorem takeAnswer_ir (s : State) : (takeAnswer s).ir = s.ir := by unfold takeAnswer; split <;> rfl
@[simp] theorem takeAnswer_inReg (s : State) : (takeAnswer s).inReg = s.inReg := by unfold takeAnswer; split <;> rfl
@[simp] theorem takeAnswer_outReg (s : State) : (takeAnswer s).outReg = s.outReg := by unfold takeAnswer; split <;> rfl
@[simp] theorem takeAnswer_halted (s : State) : (takeAnswer s).halted = s.halted := by unfold takeAnswer; split <;> rfl
@[simp] theorem takeAnswer_runState (s : State) : (takeAnswer s).runState = s.runState := by unfold takeAnswer; split <;> rfl
@[simp] theorem takeAnswer_fault (s : State) : (takeAnswer s).fault = s.fault := by unfold takeAnswer; split <;> rfl
@[simp] theorem takeAnswer_mem (s : State) : (takeAnswer s).mem = s.mem := by unfold takeAnswer; split <;> rfl
@[simp] theorem takeAnswer_head (s : State) : (takeAnswer s).head = s.head := by unfold takeAnswer; split <;> rfl
@[simp] theorem takeAnswer_out (s : State) : (takeAnswer s).out = s.out := by unfold takeAnswer; split <;> rfl
@[simp] theorem takeAnswer_mode (s : State) : (takeAnswer s).mode = s.mode := by unfold takeAnswer; split <;> rfl
@[simp] theorem takeAnswer_atGate (s : State) : (takeAnswer s).atGate = s.atGate := by unfold takeAnswer; split <;> rfl

end Sys2Proof.Machine
end

