-- ==== Sys2Proof/Laws/Exec.lean ====
section
/-! SUPPORT. One spec lemma per meaning: what it answers, with the memory primitives' bounds discharged. Callers cite
these and never unfold a meaning. -/

namespace Sys2Proof.Machine

/-- The address in MAR after Decode is the operand, always a valid one. -/
theorem latched_lt (s : State) (x : Operand) : (latchOperand s x).mar.toNat < Config.memWords := by
  simpa using operand_lt x

/-- A read at a decoded operand never raises. -/
theorem withRead_operand (s : State) (x : Operand) (rest : Word → Result) :
    withRead s (zext16 x) rest = rest (s.mem.read x.toNat) := by
  rw [withRead_of_lt (by simpa using operand_lt x), zext16_toNat]

/-- A store at a decoded operand never raises. -/
theorem withWrite_operand (s : State) (x : Operand) (v : Word) (rest : State → Result) :
    withWrite s (zext16 x) v rest = rest (s.writeWord x.toNat v) := by
  rw [withWrite_of_lt (by simpa using operand_lt x), zext16_toNat]

theorem execLoad_eq (x : Operand) (s : State) :
    execLoad x s = .next ((latchOperand s x).setAc (s.mem.read x.toNat)) := by
  simp [execLoad, withRead_operand]

theorem execStore_eq (x : Operand) (s : State) :
    execStore x s = .next ((latchOperand s x).writeWord x.toNat s.ac) := by
  simp [execStore, withWrite_operand]

theorem execClear_eq (x : Operand) (s : State) : execClear x s = .next ((latchOperand s x).setAc 0) := rfl

theorem execAdd_eq (x : Operand) (s : State) :
    execAdd x s =
      .next (((latchOperand s x).setMbr (s.mem.read x.toNat)).setAc (aluAdd s.ac (s.mem.read x.toNat))) := by
  simp [execAdd, withDirectOperand_of_lt (latched_lt s x)]

theorem execSubt_eq (x : Operand) (s : State) :
    execSubt x s =
      .next (((latchOperand s x).setMbr (s.mem.read x.toNat)).setAc (aluSub s.ac (s.mem.read x.toNat))) := by
  simp [execSubt, withDirectOperand_of_lt (latched_lt s x)]

/-- The state after ADDI's first load: the pointer in MBR and MAR. -/
def State.withPointer (s : State) (p : Word) : State := (s.setMbr p).setMar p

@[simp] theorem withPointer_ac (s : State) (p : Word) : (s.withPointer p).ac = s.ac := rfl
@[simp] theorem withPointer_mar (s : State) (p : Word) : (s.withPointer p).mar = p := rfl
@[simp] theorem withPointer_mbr (s : State) (p : Word) : (s.withPointer p).mbr = p := rfl
@[simp] theorem withPointer_pc (s : State) (p : Word) : (s.withPointer p).pc = s.pc := rfl
@[simp] theorem withPointer_ir (s : State) (p : Word) : (s.withPointer p).ir = s.ir := rfl
@[simp] theorem withPointer_inReg (s : State) (p : Word) : (s.withPointer p).inReg = s.inReg := rfl
@[simp] theorem withPointer_outReg (s : State) (p : Word) : (s.withPointer p).outReg = s.outReg := rfl
@[simp] theorem withPointer_halted (s : State) (p : Word) : (s.withPointer p).halted = s.halted := rfl
@[simp] theorem withPointer_runState (s : State) (p : Word) : (s.withPointer p).runState = s.runState := rfl
@[simp] theorem withPointer_fault (s : State) (p : Word) : (s.withPointer p).fault = s.fault := rfl
@[simp] theorem withPointer_mem (s : State) (p : Word) : (s.withPointer p).mem = s.mem := rfl
@[simp] theorem withPointer_head (s : State) (p : Word) : (s.withPointer p).head = s.head := rfl
@[simp] theorem withPointer_out (s : State) (p : Word) : (s.withPointer p).out = s.out := rfl
@[simp] theorem withPointer_mode (s : State) (p : Word) : (s.withPointer p).mode = s.mode := rfl
@[simp] theorem withPointer_atGate (s : State) (p : Word) : (s.withPointer p).atGate = s.atGate := rfl
@[simp] theorem withPointer_inputs (s : State) (p : Word) : (s.withPointer p).inputs = s.inputs := rfl
@[simp] theorem withPointer_draws (s : State) (p : Word) : (s.withPointer p).draws = s.draws := rfl

theorem execAddi_of_lt {x : Operand} {s : State} (h : (s.mem.read x.toNat).toNat < Config.memWords) :
    execAddi x s =
      .next (((s.withPointer (s.mem.read x.toNat)).setMbr (s.mem.read (s.mem.read x.toNat).toNat)).setAc
        (aluAdd s.ac (s.mem.read (s.mem.read x.toNat).toNat))) := by
  unfold execAddi withIndirectOperand
  rw [withDirectOperand_of_lt (latched_lt s x), withDirectOperand_of_lt (by simpa using h)]
  simp [State.withPointer, latchOperand, State.setMar, State.setMbr, State.setAc]

theorem execAddi_of_ge {x : Operand} {s : State} (h : Config.memWords ≤ (s.mem.read x.toNat).toNat) :
    execAddi x s =
      .next ((s.withPointer (s.mem.read x.toNat)).recordFault
        (.addressOutOfBounds (s.mem.read x.toNat).toNat)) := by
  unfold execAddi withIndirectOperand
  rw [withDirectOperand_of_lt (latched_lt s x), withDirectOperand_of_ge (by simpa using h)]
  simp [State.withPointer, latchOperand, State.setMar, State.setMbr, State.recordFault]

theorem execOutput_eq (x : Operand) (s : State) :
    execOutput x s = .next (((latchOperand s x).setOutReg s.ac).emit s.ac) := rfl

theorem execHalt_eq (x : Operand) (s : State) : execHalt x s = .next (latchOperand s x).setHalted := rfl

theorem execJns_eq (x : Operand) (s : State) :
    execJns x s = .next (((latchOperand s x).writeWord x.toNat s.pc).setPc (zext16 x + 1)) := by
  simp [execJns, withWrite_operand]

theorem execJump_eq (x : Operand) (s : State) : execJump x s = .next ((latchOperand s x).setPc (zext16 x)) := rfl

theorem execJumpi_eq (x : Operand) (s : State) :
    execJumpi x s = .next ((latchOperand s x).setPc (s.mem.read x.toNat)) := by
  simp [execJumpi, withRead_operand]

/-- The condition SKIPCOND tests, by the three legal codes; none for a reserved one. -/
theorem skipTest_zext16 (c : Operand) (ac : Word) :
    skipTest (zext16 c) ac =
      if c = 0x000 then some (decide (signed16 ac < 0))
      else if c = 0x400 then some (decide (ac = 0))
      else if c = 0x800 then some (decide (signed16 ac > 0))
      else none := by
  have h0 : zext16 c = 0x000 ↔ c = 0x000 := ⟨fun h => zext16_inj (h.trans (by decide)), fun h => by subst h; decide⟩
  have h4 : zext16 c = 0x400 ↔ c = 0x400 := ⟨fun h => zext16_inj (h.trans (by decide)), fun h => by subst h; decide⟩
  have h8 : zext16 c = 0x800 ↔ c = 0x800 := ⟨fun h => zext16_inj (h.trans (by decide)), fun h => by subst h; decide⟩
  simp only [skipTest, h0, h4, h8]

/-- A condition is reserved exactly when SKIPCOND's test has no answer. -/
theorem skipTest_eq_none (c : Operand) (ac : Word) : skipTest (zext16 c) ac = none ↔ c ∉ conditionCodes := by
  rw [skipTest_zext16]
  simp only [conditionCodes, List.mem_cons, List.not_mem_nil, or_false, not_or]
  split_ifs <;> simp_all

/-! ### What Decode+Execute can do, said once -/

/-- The next state of an instruction, wherever it has one. -/
def effect : Instr → State → State
  | .jns x, s => ((latchOperand s x).writeWord x.toNat s.pc).setPc (zext16 x + 1)
  | .load x, s => (latchOperand s x).setAc (s.mem.read x.toNat)
  | .store x, s => (latchOperand s x).writeWord x.toNat s.ac
  | .add x, s => ((latchOperand s x).setMbr (s.mem.read x.toNat)).setAc (aluAdd s.ac (s.mem.read x.toNat))
  | .subt x, s => ((latchOperand s x).setMbr (s.mem.read x.toNat)).setAc (aluSub s.ac (s.mem.read x.toNat))
  | .input x, s =>
    ((takeAnswer (latchOperand s x)).setInReg (inputWord (nextAnswer s))).setAc (inputWord (nextAnswer s))
  | .output x, s => ((latchOperand s x).setOutReg s.ac).emit s.ac
  | .halt x, s => (latchOperand s x).setHalted
  | .skipcond c, s =>
    if skipTest (zext16 c) s.ac = some true then (latchOperand s c).setPc (s.pc + 1) else latchOperand s c
  | .jump x, s => (latchOperand s x).setPc (zext16 x)
  | .clear x, s => (latchOperand s x).setAc 0
  | .addi x, s =>
    if (s.mem.read x.toNat).toNat < Config.memWords then
      ((s.withPointer (s.mem.read x.toNat)).setMbr (s.mem.read (s.mem.read x.toNat).toNat)).setAc
        (aluAdd s.ac (s.mem.read (s.mem.read x.toNat).toNat))
    else
      (s.withPointer (s.mem.read x.toNat)).recordFault (.addressOutOfBounds (s.mem.read x.toNat).toNat)
  | .jumpi x, s => (latchOperand s x).setPc (s.mem.read x.toNat)
  | .undefinedD x, s => (latchOperand s x).recordFault (.undecodableOpcode 0xD)
  | .undefinedE x, s => (latchOperand s x).recordFault (.undecodableOpcode 0xE)
  | .undefinedF x, s => (latchOperand s x).recordFault (.undecodableOpcode 0xF)

/-- ADDI's next state with a pointer that is an address. -/
theorem effect_addi_of_lt {x : Operand} {s : State} (h : (s.mem.read x.toNat).toNat < Config.memWords) :
    effect (.addi x) s =
      ((s.withPointer (s.mem.read x.toNat)).setMbr (s.mem.read (s.mem.read x.toNat).toNat)).setAc
        (aluAdd s.ac (s.mem.read (s.mem.read x.toNat).toNat)) := if_pos h

/-- ADDI's next state with a pointer that is none. -/
theorem effect_addi_of_ge {x : Operand} {s : State} (h : Config.memWords ≤ (s.mem.read x.toNat).toNat) :
    effect (.addi x) s =
      (s.withPointer (s.mem.read x.toNat)).recordFault (.addressOutOfBounds (s.mem.read x.toNat).toNat) :=
  if_neg (Nat.not_lt.mpr h)

/-- Everything Decode+Execute can do: the instruction's next state, or the refusal of a reserved SKIPCOND condition. -/
theorem exec_cases (i : Instr) (s : State) :
    ((∀ c, i = .skipcond c → c ∈ conditionCodes) ∧ exec i s = .next (effect i s)) ∨
    (∃ c, i = .skipcond c ∧ c ∉ conditionCodes ∧ exec i s = .refused (.skipcondReservedCondition c)) := by
  cases i with
  | jns x => exact .inl ⟨by simp, execJns_eq x s⟩
  | load x => exact .inl ⟨by simp, execLoad_eq x s⟩
  | store x => exact .inl ⟨by simp, execStore_eq x s⟩
  | add x => exact .inl ⟨by simp, execAdd_eq x s⟩
  | subt x => exact .inl ⟨by simp, execSubt_eq x s⟩
  | input x => exact .inl ⟨by simp, rfl⟩
  | output x => exact .inl ⟨by simp, rfl⟩
  | halt x => exact .inl ⟨by simp, rfl⟩
  | skipcond c =>
    by_cases hc : skipTest (zext16 c) s.ac = none
    · refine .inr ⟨c, rfl, (skipTest_eq_none c s.ac).mp hc, ?_⟩
      simp [exec, execSkipcond, hc]
    · refine .inl ⟨fun d hd => ?_, ?_⟩
      · rw [skipTest_eq_none, not_not] at hc
        simp only [Instr.skipcond.injEq] at hd
        exact hd ▸ hc
      · obtain ⟨b, hb⟩ := Option.ne_none_iff_exists'.mp hc
        cases b <;> simp [exec, execSkipcond, effect, hb]
  | jump x => exact .inl ⟨by simp, rfl⟩
  | clear x => exact .inl ⟨by simp, rfl⟩
  | addi x =>
    refine .inl ⟨by simp, ?_⟩
    by_cases h : (s.mem.read x.toNat).toNat < Config.memWords
    · simp only [effect, h, if_true]
      exact execAddi_of_lt h
    · simp only [effect, h, if_false]
      exact execAddi_of_ge (Nat.not_lt.mp h)
  | jumpi x => exact .inl ⟨by simp, execJumpi_eq x s⟩
  | undefinedD x => exact .inl ⟨by simp, rfl⟩
  | undefinedE x => exact .inl ⟨by simp, rfl⟩
  | undefinedF x => exact .inl ⟨by simp, rfl⟩

/-- The inversion form: a next state is the instruction's effect, and a SKIPCOND that has one has a legal condition. -/
theorem exec_eq_next {i : Instr} {s t : State} (h : exec i s = .next t) :
    t = effect i s ∧ ∀ c, i = .skipcond c → c ∈ conditionCodes := by
  rcases exec_cases i s with ⟨hc, he⟩ | ⟨c, _, _, he⟩
  · rw [he] at h
    exact ⟨by simpa using h.symm, hc⟩
  · rw [he] at h
    simp at h

/-- Everything a step that has a next state can be: a Fetch that faults, or a completed cycle. -/
theorem step_eq_next {s t : State} (h : step s = .next t) :
    s.runState = .running ∧ s.atGate = false ∧
    ((Config.memWords ≤ s.pc.toNat ∧ t = (s.setMar s.pc).recordFault (.addressOutOfBounds s.pc.toNat)) ∨
      (s.pc.toNat < Config.memWords ∧ t = finishCycle (effect s.nextInstr s.fetched) ∧
        ∀ c, s.nextInstr = .skipcond c → c ∈ conditionCodes)) := by
  obtain ⟨hr, hg, hf | ⟨hp, u, hu, ht⟩⟩ := runCycle_eq_next h
  · exact ⟨hr, hg, .inl hf⟩
  · obtain ⟨rfl, hc⟩ := exec_eq_next hu
    exact ⟨hr, hg, .inr ⟨hp, ht, hc⟩⟩

/-! ### The host's answer -/

theorem opcode_eq_input_iff (i : Instr) : i.opcode = 0x5 ↔ ∃ x, i = .input x := by
  cases i <;> simp [Instr.opcode]

/-- When the core is blocked in INPUT, in the words of the statements. -/
theorem blockedInInput_iff (s : State) :
    blockedInInput s = true ↔ s.Ready ∧ (∃ x, s.nextInstr = .input x) ∧ s.inputs = [] := by
  simp only [blockedInInput, decide_eq_true_eq, opcode_eq_input_iff]
  exact ⟨fun ⟨r, g, p, i, n⟩ => ⟨⟨r, g, p⟩, i, n⟩, fun ⟨⟨r, g, p⟩, i, n⟩ => ⟨r, g, p, i, n⟩⟩

/-- Everything the host's answer can do. -/
theorem hostAnswer_eq_done {s t : State} {v : InputAnswer} (h : hostAnswer s v = .done t ()) :
    blockedInInput s = true ∧ t = { s with inputs := [v] } := by
  unfold hostAnswer at h
  split at h
  · exact ⟨‹_›, by simpa using h.symm⟩
  · cases h

end Sys2Proof.Machine
end

