-- ==== Sys2Proof/Laws/PerInstr.lean ====
section
/-! SUPPORT. Statements for all instructions, one lemma per constructor (LAWS.json, "per_instruction"). Family `Fields`:
the encoder puts an instruction's code in bits 15..12 and its operand in bits 11..0, and drops no bit of either
(30_encoding.md R81). -/

namespace Sys2Proof

/-- Reading the opcode field of an assembled word (30_encoding.md R81). -/
theorem opcodeField_assembleWord (op : Opcode) (x : Operand) : opcodeField (assembleWord op x) = op := by
  apply BitVec.eq_of_getLsbD_eq
  intro i hi
  have h : 12 + i < 16 := by omega
  simp [opcodeField, assembleWord, hi, h]

/-- Reading the operand field of an assembled word (30_encoding.md R81). -/
theorem operandField_assembleWord (op : Opcode) (x : Operand) : operandField (assembleWord op x) = x := by
  apply BitVec.eq_of_getLsbD_eq
  intro i hi
  simp [operandField, assembleWord, hi]
  omega

/-- Every word is its two fields put together (30_encoding.md R81). -/
theorem assembleWord_fields (w : Word) : assembleWord (opcodeField w) (operandField w) = w := by
  apply BitVec.eq_of_getLsbD_eq
  intro i hi
  by_cases h : i < 12
  · simp [opcodeField, operandField, assembleWord, h, hi]
  · have : i - 12 < 4 := by omega
    simp [opcodeField, operandField, assembleWord, h, hi, this, show 12 + (i - 12) = i by omega]

namespace Laws.Fields

/-- The two fields of an instruction's word are its code and its operand. -/
def Statement (i : Instr) : Prop := opcodeField (encodeWord i) = i.opcode ∧ operandField (encodeWord i) = i.operand

theorem jns (x : Operand) : Statement (.jns x) := ⟨opcodeField_assembleWord _ _, operandField_assembleWord _ _⟩
theorem load (x : Operand) : Statement (.load x) := ⟨opcodeField_assembleWord _ _, operandField_assembleWord _ _⟩
theorem store (x : Operand) : Statement (.store x) := ⟨opcodeField_assembleWord _ _, operandField_assembleWord _ _⟩
theorem add (x : Operand) : Statement (.add x) := ⟨opcodeField_assembleWord _ _, operandField_assembleWord _ _⟩
theorem subt (x : Operand) : Statement (.subt x) := ⟨opcodeField_assembleWord _ _, operandField_assembleWord _ _⟩
theorem input (x : Operand) : Statement (.input x) := ⟨opcodeField_assembleWord _ _, operandField_assembleWord _ _⟩
theorem output (x : Operand) : Statement (.output x) := ⟨opcodeField_assembleWord _ _, operandField_assembleWord _ _⟩
theorem halt (x : Operand) : Statement (.halt x) := ⟨opcodeField_assembleWord _ _, operandField_assembleWord _ _⟩
theorem skipcond (c : Operand) : Statement (.skipcond c) :=
  ⟨opcodeField_assembleWord _ _, operandField_assembleWord _ _⟩
theorem jump (x : Operand) : Statement (.jump x) := ⟨opcodeField_assembleWord _ _, operandField_assembleWord _ _⟩
theorem clear (x : Operand) : Statement (.clear x) := ⟨opcodeField_assembleWord _ _, operandField_assembleWord _ _⟩
theorem addi (x : Operand) : Statement (.addi x) := ⟨opcodeField_assembleWord _ _, operandField_assembleWord _ _⟩
theorem jumpi (x : Operand) : Statement (.jumpi x) := ⟨opcodeField_assembleWord _ _, operandField_assembleWord _ _⟩
theorem undefinedD (x : Operand) : Statement (.undefinedD x) :=
  ⟨opcodeField_assembleWord _ _, operandField_assembleWord _ _⟩
theorem undefinedE (x : Operand) : Statement (.undefinedE x) :=
  ⟨opcodeField_assembleWord _ _, operandField_assembleWord _ _⟩
theorem undefinedF (x : Operand) : Statement (.undefinedF x) :=
  ⟨opcodeField_assembleWord _ _, operandField_assembleWord _ _⟩

end Laws.Fields

end Sys2Proof
end

