-- ==== Sys2Proof/Tests/Slice0.lean ====
section
/-! SUPPORT. The model's own tests: words written out bit by bit from the spec's encodings, the spec's vectors
(95_test_vectors.md), and a witness for each statement that has hypotheses. -/

namespace Sys2Proof.Tests

open Sys2Proof Sys2Proof.Machine

/-- The start state of a single-cycle vector: the run-start state with PC, AC and the listed words of memory. -/
def boot (pc ac : Word) (words : List WordCell) : State :=
  { State.reset with pc := pc, ac := ac, mem := words.foldl (fun m c => m.write c.1 c.2) [] }

/-- Whether a result is a next state that meets a test. -/
def nextSat (r : Result) (p : State → Bool) : Bool :=
  match r with
  | .next t => p t
  | .fault _ => false
  | .refused _ => false

/-- Whether a result is the refusal of a SKIPCOND condition. -/
def refusedCondition (r : Result) (c : Operand) : Bool :=
  match r with
  | .refused (.skipcondReservedCondition d) => d = c
  | _ => false

/-- Whether a result is the given stuck outcome. -/
def stuckAt (r : Result) (f : Fault) : Bool :=
  match r with
  | .fault g => g = f
  | _ => false

/-! ### WellFormed: an ill-formed term for each check -/

theorem test_wellFormed_refuses_reserved_condition :
    (Instr.skipcond 0xC00).wellFormed = false ∧ (Instr.skipcond 0x401).wellFormed = false := by decide

theorem test_wellFormed_refuses_undefined_opcodes :
    (Instr.undefinedD 0).wellFormed = false ∧ (Instr.undefinedE 0).wellFormed = false ∧
    (Instr.undefinedF 0).wellFormed = false := by decide

theorem test_wellFormed_accepts_defined :
    [Instr.skipcond 0x000, .skipcond 0x400, .skipcond 0x800, .jns 0xFFF, .halt 0xABC].all Instr.wellFormed := by decide

/-! ### Decoding: words written out from 30_encoding.md R84 (opcode bits, then operand bits) -/

theorem test_decode_data_transfer :
    decodeWord 0b0001000000000101#16 = .load 0x005 ∧ decodeWord 0b0010000000000101#16 = .store 0x005 ∧
    decodeWord 0b1010000100100011#16 = .clear 0x123 := by decide

theorem test_decode_arithmetic :
    decodeWord 0b0011101010111100#16 = .add 0xABC ∧ decodeWord 0b0100000000001000#16 = .subt 0x008 ∧
    decodeWord 0b1011000000001111#16 = .addi 0x00F := by decide

theorem test_decode_input_output_halt :
    decodeWord 0b0101111111111111#16 = .input 0xFFF ∧ decodeWord 0b0110000000000000#16 = .output 0x000 ∧
    decodeWord 0b0111000000000000#16 = .halt 0x000 := by decide

theorem test_decode_control_transfer :
    decodeWord 0b0000111111111111#16 = .jns 0xFFF ∧ decodeWord 0b1000010000000000#16 = .skipcond 0x400 ∧
    decodeWord 0b1001000000000000#16 = .jump 0x000 ∧ decodeWord 0b1100000000000110#16 = .jumpi 0x006 := by decide

theorem test_decode_undefined :
    decodeWord 0b1101000000000000#16 = .undefinedD 0x000 ∧ decodeWord 0b1110111111111111#16 = .undefinedE 0xFFF ∧
    decodeWord 0b1111111111111111#16 = .undefinedF 0xFFF := by decide

/-- Encoder checks of 95_test_vectors.md 2.6. -/
theorem test_encode :
    encodeWord (.load 5) = 0x1005 ∧ encodeWord (.jumpi 0xFFF) = 0xCFFF ∧
    assembleWord 2 (BitVec.ofNat 12 0x1005) = 0x2005 ∧ encodeWord (decodeWord 0x8400) = 0x8400 := by decide

theorem test_decode_no_word : decode [] = .error .noWord := by decide

theorem test_decodeTableWord :
    decodeTableWord 16 0xB00F = some (.addi 0x00F) ∧ decodeTableWord 8 0xB0 = none ∧ decodeTableWord 16 65536 = none := by
  decide

/-- The very next step after `withFetchWord` runs the word, as the first instruction after reset. -/
theorem test_withFetchWord :
    nextSat (step (State.reset.withFetchWord 16 0x7ABC)) fun t =>
      t.ir = 0x7ABC ∧ t.mar = 0x0ABC ∧ t.pc = 1 ∧ t.runState = .halted := by decide

/-! ### 95_test_vectors.md 2.1: LOAD, STORE, CLEAR -/

theorem test_load_1 : nextSat (step (boot 0 0 [(0, 0x1005), (5, 0xBEEF)])) fun t =>
    t.pc = 1 ∧ t.ac = 0xBEEF ∧ t.mar = 0x0005 ∧ t.mbr = 0x1005 ∧ t.ir = 0x1005 := by decide

theorem test_load_3 : nextSat (step (boot 0 0x1111 [(0, 0x1FFF)])) fun t =>
    t.pc = 1 ∧ t.ac = 0 ∧ t.mar = 0x0FFF ∧ t.mbr = 0x1FFF := by decide

theorem test_store_1 : nextSat (step (boot 0 0x1234 [(0, 0x2010)])) fun t =>
    t.pc = 1 ∧ t.ac = 0x1234 ∧ t.mar = 0x0010 ∧ t.mbr = 0x2010 ∧ t.mem = [(0, 0x2010), (16, 0x1234)] ∧ t.head = 16 := by
  decide

theorem test_store_4 : nextSat (step (boot 3 0 [(3, 0x2004), (4, 0x9999)])) fun t =>
    t.pc = 4 ∧ t.mem = [(3, 0x2004)] ∧ t.mem.read 4 = 0 ∧ t.head = 4 := by decide

theorem test_clear_2 : nextSat (step (boot 0 0xABCD [(0, 0xA123)])) fun t =>
    t.pc = 1 ∧ t.ac = 0 ∧ t.mar = 0x0123 ∧ t.mbr = 0xA123 := by decide

/-! ### 2.2: ADD, SUBT, ADDI -/

theorem test_add_2 : nextSat (step (boot 0 0x7FFF [(0, 0x3005), (5, 1)])) fun t =>
    t.ac = 0x8000 ∧ t.mar = 5 ∧ t.mbr = 1 ∧ t.ir = 0x3005 := by decide

theorem test_add_3 : nextSat (step (boot 0 0xFFFF [(0, 0x3005), (5, 1)])) fun t => t.ac = 0 ∧ t.pc = 1 := by decide

theorem test_subt_2 : nextSat (step (boot 0 0 [(0, 0x4005), (5, 1)])) fun t =>
    t.ac = 0xFFFF ∧ t.mar = 5 ∧ t.mbr = 1 ∧ t.ir = 0x4005 := by decide

theorem test_subt_3 : nextSat (step (boot 0 0x8000 [(0, 0x4005), (5, 1)])) fun t => t.ac = 0x7FFF ∧ t.pc = 1 := by decide

theorem test_addi_1 : nextSat (step (boot 0 1 [(0, 0xB005), (5, 9), (9, 0x0010)])) fun t =>
    t.pc = 1 ∧ t.ac = 0x0011 ∧ t.mar = 9 ∧ t.mbr = 0x0010 ∧ t.ir = 0xB005 := by decide

theorem test_addi_5 : nextSat (step (boot 0 1 [(0, 0xB005), (5, 0x1000)])) fun t =>
    t.fault = some (.addressOutOfBounds 4096) ∧ t.runState = .faulted ∧ t.ac = 1 ∧ t.pc = 1 ∧ t.mar = 0x1000 ∧
    t.mbr = 0x1000 ∧ t.ir = 0xB005 ∧ faultCode t.fault = 2 := by decide

/-- The corner table of 42_arithmetic.md R166: AC, operand word, ADD, SUBT. -/
theorem test_alu_corners :
    [((0x0000 : Word), (0x0000 : Word), (0x0000 : Word), (0x0000 : Word)), (1, 1, 2, 0), (0, 1, 1, 0xFFFF),
      (0xFFFF, 1, 0, 0xFFFE), (0x7FFF, 1, 0x8000, 0x7FFE), (0x8000, 1, 0x8001, 0x7FFF), (0x8000, 0x8000, 0, 0),
      (0x7FFF, 0x7FFF, 0xFFFE, 0), (0, 0x8000, 0x8000, 0x8000), (0x1234, 0xFFFF, 0x1233, 0x1235),
      (0xFFFF, 0xFFFF, 0xFFFE, 0)].all fun r => aluAdd r.1 r.2.1 = r.2.2.1 && aluSub r.1 r.2.1 = r.2.2.2 := by decide

/-! ### 2.3: INPUT, OUTPUT, HALT -/

theorem test_input_4 : nextSat (step { boot 0 0 [(0, 0x5000)] with inputs := [⟨true, 1⟩, ⟨false, 9⟩] }) fun t =>
    t.pc = 1 ∧ t.ac = 0xFFFF ∧ t.inReg = 0xFFFF ∧ t.mar = 0 ∧ t.mbr = 0x5000 ∧ t.inputs = [⟨false, 9⟩] := by decide

theorem test_input_5 : nextSat (step { boot 0 0 [(0, 0x5ABC)] with inputs := [⟨true, 0xFFF⟩] }) fun t =>
    t.ac = 0xF001 ∧ t.inReg = 0xF001 ∧ t.mar = 0x0ABC ∧ t.draws = 0 := by decide

theorem test_output_2 : nextSat (step (boot 0 0xFFFF [(0, 0x6000)])) fun t =>
    t.ac = 0xFFFF ∧ t.outReg = 0xFFFF ∧ t.out = [0xFFFF] ∧ t.pc = 1 := by decide

theorem test_output_3 : nextSat (step { boot 0 0 [(0, 0x6FFF)] with out := [7] }) fun t =>
    t.outReg = 0 ∧ t.out = [7, 0] ∧ t.mar = 0x0FFF := by decide

theorem test_halt_2 : nextSat (step (boot 4095 0 [(4095, 0x7000)])) fun t =>
    t.pc = 4096 ∧ t.halted ∧ t.runState = .halted ∧ t.fault = none ∧ t.mar = 0 ∧ t.mbr = 0x7000 := by decide

theorem test_halt_3 : nextSat (step (boot 0 0x1234 [(0, 0x7ABC)])) fun t =>
    t.ac = 0x1234 ∧ t.mar = 0x0ABC ∧ t.halted ∧ stuckAt (step t) (.notRunning .halted) := by decide

/-! ### 2.4: JNS, SKIPCOND, JUMP, JUMPI -/

theorem test_jns_1 : nextSat (step (boot 10 0x5555 [(10, 0x0020)])) fun t =>
    t.pc = 33 ∧ t.ac = 0x5555 ∧ t.mar = 0x20 ∧ t.mbr = 0x20 ∧ t.mem.read 0x20 = 11 ∧ t.head = 32 := by decide

theorem test_jns_5 : nextSat (step (boot 4095 0 [(4095, 0x0010)])) fun t =>
    t.pc = 17 ∧ t.mem.read 0x10 = 0x1000 := by decide

theorem test_skipcond_11 : nextSat (step (boot 4095 0 [(4095, 0x8400)])) fun t =>
    t.pc = 4097 ∧ t.mar = 0x0400 ∧
    nextSat (step t) fun u => u.fault = some (.addressOutOfBounds 4097) := by decide

/-- V-SKIP-3 to V-SKIP-10 and V-SKIP-13: word, AC, PC after; and the reserved condition 0x401. -/
theorem test_skipcond_conditions :
    ([((0x8400 : Word), (0x0001 : Word), (5 : Word)), (0x8000, 0xFFFF, 6), (0x8000, 0x8000, 6), (0x8000, 0x7FFF, 5),
      (0x8000, 0, 5), (0x8800, 1, 6), (0x8800, 0x7FFF, 6), (0x8800, 0x8000, 5), (0x8800, 0, 5)].all fun r =>
        nextSat (step (boot 4 r.2.1 [(4, r.1)])) fun t => t.pc = r.2.2) ∧
    refusedCondition (step (boot 4 0 [(4, 0x8401)])) 0x401 := by decide

theorem test_jump_3 : nextSat (step (boot 5 0 [(5, 0x9FFF)])) fun t => t.pc = 4095 ∧ t.mar = 0x0FFF ∧ t.ac = 0 := by decide

theorem test_jumpi_1 : nextSat (step (boot 9 0 [(9, 0xC006), (6, 2)])) fun t =>
    t.pc = 2 ∧ t.mar = 6 ∧ t.mbr = 0xC006 := by decide

theorem test_jumpi_4 : nextSat (step (boot 9 0 [(9, 0xC009)])) fun t =>
    t.pc = 0xC009 ∧ t.fault = none ∧
    nextSat (step t) fun u => u.fault = some (.addressOutOfBounds 49161) ∧ u.pc = 0xC009 ∧ u.mar = 0xC009 := by decide

/-! ### 2.5: faults -/

theorem test_undefined_words :
    (nextSat (step (boot 0 0x1234 [(0, 0xD000)])) fun t =>
      t.fault = some (.undecodableOpcode 0xD) ∧ t.runState = .faulted ∧ t.pc = 1 ∧ t.ac = 0x1234) ∧
    (nextSat (step (boot 0 0x1234 [(0, 0xE5A5)])) fun t =>
      t.fault = some (.undecodableOpcode 0xE) ∧ t.mar = 0x05A5 ∧ t.mbr = 0xE5A5) ∧
    (nextSat (step (boot 0 0x1234 [(0, 0xFFFF)])) fun t =>
      t.fault = some (.undecodableOpcode 0xF) ∧ t.mar = 0x0FFF ∧ t.ir = 0xFFFF) := by decide

theorem test_fetch_fault : nextSat (step { boot 4096 0x1234 [] with ir := 0xA000, mbr := 0xA000 }) fun t =>
    t.fault = some (.addressOutOfBounds 4096) ∧ t.pc = 4096 ∧ t.mar = 0x1000 ∧ t.mbr = 0xA000 ∧ t.ir = 0xA000 := by decide

/-! ### 2.8 and 2.9: memory store, image, reset, step gate -/

/-- V-MEM-2, V-MEM-3: HEAD records writes. -/
theorem test_memory_head :
    storeFrom [5] 100 State.powerOn = .done { State.powerOn with mem := [(100, 5)], head := 100 } () ∧
    hostStore { State.powerOn with mem := [(100, 5)], head := 100 } 0 100 =
      .done { State.powerOn with mem := [], head := 100 } () := by decide

/-- V-MEM-7: loadRange clears nothing. -/
theorem test_loadRange :
    hostLoadRange { State.powerOn with mem := [(200, 9)], head := 200 } [1, 2] =
      .done { State.powerOn with mem := [(0, 1), (1, 2), (200, 9)], head := 1 } () := by decide

/-- V-MEM-9, S6: the address is tested first. -/
theorem test_store_errors :
    hostStore State.powerOn 65536 0 = .failed State.powerOn (.valueOverflow 65536) ∧
    hostStore State.powerOn 65536 4096 = .failed State.powerOn (.addressOutOfBounds 4096) ∧
    hostLoad State.powerOn 4096 = .failed State.powerOn (.addressOutOfBounds 4096) := by decide

/-- V-MEM-5: the image text. -/
theorem test_image :
    imageText { State.powerOn with mem := [(2, 0xBEEF)], head := 2 } = "0000\n0000\nBEEF".toList := by decide

/-- V-RST-2: a new run keeps M and HEAD. -/
theorem test_run_start :
    hostStartRun { State.reset with ac := 7, out := [7], halted := true, runState := .halted, mem := [(5, 7)], head := 5 }
      .singleStep = .done { State.reset with mem := [(5, 7)], head := 5, mode := .singleStep } () := by decide

theorem test_step_gate :
    nextSat (step { boot 0 0 [(0, 0xA000)] with mode := .singleStep }) fun t =>
      t.atGate ∧ stuckAt (step t) .waitingAtStepGate ∧ hostAcknowledge t = .done { t with atGate := false } () := by
  decide

theorem test_outcome :
    hostOutcome { State.reset with runState := .faulted, fault := some (.undecodableOpcode 0xD), out := [7] } =
      .done { State.reset with runState := .faulted, fault := some (.undecodableOpcode 0xD), out := [7] }
        ⟨.faulted, some (.undecodableOpcode 0xD), [7]⟩ := by decide

/-- 70_reset_and_hazards.md R235: what the host reads at Idle, and that it reads nothing of a core that runs. -/
theorem test_host_reads :
    hostOutcome State.powerOn = .done State.powerOn ⟨.idle, none, []⟩ ∧
    hostExamine State.powerOn = .done State.powerOn State.powerOn ∧
    hostOutcome State.reset = .noSuchMove ∧ hostExamine State.reset = .noSuchMove := by decide

/-- 70_reset_and_hazards.md R235: the host answers a core that is blocked in INPUT, once, and no other. -/
theorem test_host_answer :
    hostAnswer (boot 0 0 [(0, 0x5000)]) ⟨false, 7⟩ = .done { boot 0 0 [(0, 0x5000)] with inputs := [⟨false, 7⟩] } () ∧
    hostAnswer { boot 0 0 [(0, 0x5000)] with inputs := [⟨false, 7⟩] } ⟨false, 8⟩ = .noSuchMove ∧
    hostAnswer (boot 0 0 [(0, 0x6000)]) ⟨false, 7⟩ = .noSuchMove ∧
    hostAnswer State.powerOn ⟨false, 7⟩ = .noSuchMove := by decide

/-! ### 2.7: the assembler -/

/-- The marker of these tests: a character none of the sources holds. -/
def assembled (source : String) : Except AsmError (List Word) := assembleWith '#' source.toList

theorem test_assemble_example :
    assembled "INPUT\nSTORE A\nLOAD A\nOUTPUT\nHALT\nA, HEX 0" =
      .ok [0x5000, 0x2005, 0x1005, 0x6000, 0x7000, 0x0000] := by decide

theorem test_assemble_literals :
    assembled "DEC 31" = .ok [0x001F] ∧ assembled "HEX 1234" = .ok [0x0234] ∧ assembled "DEC 5000" = .ok [0x0388] ∧
    assembled "LOAD HEX 010" = .ok [0x1010] ∧ assembled "JUMP DEC 10" = .ok [0x900A] ∧
    assembled "K, OUTPUT" = .ok [0x6000] := by decide

theorem test_assemble_operands :
    assembled "halt" = .ok [0x7000] ∧ assembled "SKIPCOND 0" = .ok [0x8000] ∧ assembled "LOAD 400" = .ok [0x1400] ∧
    assembled "JUMP N\nN, HALT" = .ok [0x9001, 0x7000] ∧ assembled "LOAD A\n\nA, DEC 9 #x" = .ok [0x1001, 0x0009] := by
  decide

theorem test_assemble_errors :
    assembled "INPUT\n\nA,, HEX 0" = .error ⟨.addressing, 3⟩ ∧ assembled ", HEX 0" = .error ⟨.addressing, 1⟩ ∧
    assembled "X, 5" = .error ⟨.keywordMissing, 1⟩ ∧ assembled "HEX G1" = .error ⟨.integerExpected, 1⟩ ∧
    assembled "SKIPCOND 300" = .error ⟨.skipcondInvalid, 1⟩ ∧ assembled "LOAD Q" = .error ⟨.skipcondInvalid, 1⟩ ∧
    assembled "LOAD 5\nX,, HEX 0" = .error ⟨.addressing, 2⟩ ∧ assembled "LOAD B_1" = .error ⟨.skipcondInvalid, 1⟩ ∧
    assembled "SKIPCOND 0x300" = .error ⟨.skipcondInvalid, 1⟩ := by decide

theorem test_assemble_refused :
    assembled "ADD I" = .error ⟨.outsideAdmittedSubset, 1⟩ ∧ assembled "LOAD ADDR" = .error ⟨.outsideAdmittedSubset, 1⟩ ∧
    assembled "DEC -1" = .error ⟨.outsideAdmittedSubset, 1⟩ ∧ assembled "LOAD A B" = .error ⟨.outsideAdmittedSubset, 1⟩ ∧
    assembled "A, HEX 0\nA, HEX 0" = .error ⟨.addressing, 2⟩ ∧
    assembled "SKIPCOND 0x400" = .error ⟨.outsideAdmittedSubset, 1⟩ := by decide

/-! ### Witnesses: states and operands that meet the hypotheses of the statements -/

/-- A single-cycle state at the last address, for any word. -/
def atTop (w : Word) : State := boot 4095 0 [(4095, w)]

theorem witness_ready (w : Word) : (atTop w).Ready := ⟨rfl, rfl, show 4095 < 4096 by decide⟩

theorem reset_inv : State.reset.Inv where
  memory := by decide
  status := by simp [State.StatusAgrees, State.reset]
  gate := by simp [State.GateAgrees, State.reset]
  overflow := by simp [State.NoOverflowFault, State.reset]
  mar := by simp [State.MarValid, State.reset]

theorem powerOn_inv : State.powerOn.Inv where
  memory := by decide
  status := by simp [State.StatusAgrees, State.powerOn]
  gate := by simp [State.GateAgrees, State.powerOn]
  overflow := by simp [State.NoOverflowFault, State.powerOn]
  mar := by simp [State.MarValid, State.powerOn]

/-- For `DecodeInvertsEncode`: the highest defined opcode. -/
theorem witness_DecodeInvertsEncode : (0xC : Opcode).toNat ≤ 0xC := by decide

/-- For `StepRunsTheDecodedInstruction`: the last address. -/
theorem witness_StepRunsTheDecodedInstruction :
    (atTop 0x7000).runState = .running ∧ (atTop 0x7000).atGate = false ∧ (atTop 0x7000).pc.toNat < 4096 := by decide

/-- For `FetchLatchesTheWordAtPc` and `FetchFaultState`: the last address and the first beyond it. -/
theorem witness_fetch_bounds :
    (boot 4095 0 []).pc.toNat ≤ 4095 ∧ 4096 ≤ (boot 4096 0 []).pc.toNat ∧ (boot 4096 0 []).runState = .running ∧
    (boot 4096 0 []).atGate = false := by decide

/-- For `PcAfterEachInstruction` and `MarMbrIrAfterEachInstruction`, clause by clause: a ready state (`witness_ready`)
whose step has a next state, for a word of every row of the opcode map. -/
theorem witness_PcAfterEachInstruction :
    ([0x0FFF, 0x1000, 0x2000, 0x3000, 0x4000, 0x6000, 0x7000, 0x8000, 0x8400, 0x8800, 0x9FFF, 0xA000, 0xB000, 0xBFFF,
      0xCFFF, 0xD000, 0xE000, 0xF000].all fun w => nextSat (step (atTop w)) fun _ => true) ∧
    (nextSat (step { atTop 0x5000 with inputs := [⟨false, 7⟩] }) fun _ => true) ∧
    (decodeWord 0x0FFF).opcode = 0 ∧ (decodeWord 0xCFFF).opcode = 0xC := by decide

/-- For `StoreResult`, `JnsResult`, `StoreThenLoad` and the other statements about a memory in canonical form. -/
theorem witness_memory_wf : (atTop 0x2000).mem.wf ∧ State.powerOn.mem.wf ∧ State.powerOn.runState ≠ .running := by decide

/-- For `AddiResult` and `AddiBadPointerFaults`: the last pointer that is an address, the first that is none. -/
theorem witness_addi_pointers :
    ((boot 0 0 [(5, 0x0FFF)]).mem.read (5 : Operand).toNat).toNat < 4096 ∧
    4096 ≤ ((boot 0 0 [(5, 0x1000)]).mem.read (5 : Operand).toNat).toNat := by decide

/-- For `InputResult`: an answer that is fixed, and none. -/
theorem witness_InputResult :
    ({ State.reset with inputs := [⟨true, 0xFFF⟩] } : State).inputs = ⟨true, 0xFFF⟩ :: [] ∧ State.reset.inputs = [] := by
  decide

/-- For `InputAnswersAreTheIntegersInRange`: the two ends of the range, and the clauses of the word. -/
theorem witness_InputAnswersAreTheIntegersInRange :
    inputValue ⟨true, 0xFFF⟩ = -4095 ∧ inputValue ⟨false, 0xFFF⟩ = 4095 ∧ inputValue ⟨true, 0⟩ = 0 ∧
    inputWord ⟨true, 0xFFF⟩ = 0xF001 ∧ inputWord ⟨false, 0⟩ = 0 := by decide

/-- For `HostAnswerReachesTheInput`: a core blocked in INPUT, and each reason why the host cannot answer. -/
theorem witness_HostAnswerReachesTheInput :
    (atTop 0x5ABC).Ready ∧ (atTop 0x5ABC).nextInstr = .input 0xABC ∧ (atTop 0x5ABC).inputs = [] ∧
    ¬ State.powerOn.Ready ∧ (∀ x, (atTop 0x6000).nextInstr ≠ .input x) ∧
    ({ atTop 0x5ABC with inputs := [⟨false, 0⟩] } : State).inputs ≠ [] :=
  ⟨witness_ready _, by decide, by decide, fun h => absurd h.1 (by decide),
    fun x h => Instr.noConfusion (show Instr.output 0 = .input x from h), by decide⟩

/-- For `HaltResult`: a HALT at the last address. -/
theorem witness_HaltResult : (atTop 0x7ABC).Ready ∧ (atTop 0x7ABC).nextInstr = .halt 0xABC :=
  ⟨witness_ready _, by decide⟩

/-- For `ReservedSkipcondIsRefused`. -/
theorem witness_ReservedSkipcondIsRefused : (0x401 : Operand) ≠ 0x000 ∧ (0x401 : Operand) ≠ 0x400 ∧
    (0x401 : Operand) ≠ 0x800 := by decide

/-- For `SkipcondResult` and `ExactlyOneConditionSkips`: each condition holds somewhere, at the ends of its range. -/
theorem witness_SkipcondResult :
    ([(0x000, 0x8000), (0x000, 0xFFFF), (0x400, 0x0000), (0x800, 0x0001), (0x800, 0x7FFF)] : List (Operand × Word)).all
      fun r => nextSat (exec (.skipcond r.1) (boot 0 r.2 [])) fun t => t.pc = 1 := by decide

/-- A state about to jump to the first target that is no address, in a mode. -/
def badJump (mode : RunMode) : State := { boot 9 0 [(9, 0xC006), (6, 0x1000)] with mode := mode }

/-- For `JumpiResult`: the first target that is no address, in either mode. -/
theorem witness_JumpiResult (mode : RunMode) :
    (badJump mode).Ready ∧ (badJump mode).halted = false ∧ (badJump mode).nextInstr = .jumpi 6 ∧
    4096 ≤ ((badJump mode).mem.read (6 : Operand).toNat).toNat ∧
    (badJump .continuous).mode = .continuous ∧ (badJump .singleStep).mode = .singleStep :=
  ⟨⟨rfl, rfl, show 9 < 4096 by decide⟩, rfl, by cases mode <;> decide, by cases mode <;> decide, rfl, rfl⟩

/-- For `CallThenReturnResumes`: S4, a JNS at address 10 through 0x020. -/
theorem witness_CallThenReturnResumes :
    (boot 11 0x5555 []).mem.wf ∧
    (nextSat (exec (.jns 0x020) (boot 11 0x5555 [])) fun t =>
      nextSat (exec (.jumpi 0x020) t) fun u => u.pc = 11 ∧ u.ac = 0x5555) := by decide

/-- For `UndefinedOpcodesRaiseUndecodable`: the lowest undefined word, and the highest defined one. -/
theorem witness_UndefinedOpcodesRaiseUndecodable :
    0xD000 ≤ ((atTop 0xD000).mem.read (atTop 0xD000).pc.toNat).toNat ∧
    ((atTop 0xCFFF).mem.read (atTop 0xCFFF).pc.toNat).toNat < 0xD000 ∧ (atTop 0xCFFF).fault = none ∧
    (nextSat (step (atTop 0xCFFF)) fun _ => true) := by decide

/-- For the frames: every instruction, storing or not, answers a next state somewhere. -/
theorem witness_frames :
    [Instr.jns 0xFFF, .load 0, .store 0xFFF, .add 0, .subt 0, .output 0, .halt 0, .skipcond 0x400, .jump 0, .clear 0,
      .addi 0, .jumpi 0, .undefinedD 0, .undefinedE 0, .undefinedF 0].all fun i =>
        nextSat (exec i (boot 1 0 [])) fun _ => true := by decide

/-- For the frames, INPUT. -/
theorem witness_frames_input :
    nextSat (exec (.input 0) { State.reset with inputs := [⟨false, 7⟩] }) fun t => t.ac = 7 := by decide

/-- For `FaultsHaveThreeSites` and `FaultKeepsOutputAndMemory`: no fault before, and each of the three sites. -/
theorem witness_FaultsHaveThreeSites :
    (atTop 0xB000).fault = none ∧
    (nextSat (step (boot 4096 0 [])) fun t => t.runState = .faulted) ∧
    (nextSat (step (atTop 0xD000)) fun t => t.runState = .faulted) ∧
    (nextSat (step (boot 0 0 [(0, 0xB000)])) fun t => t.runState = .faulted) := by decide

/-- For `RunEndsOnlyByHaltOrRaise` and `StepKeepsTheInvariant`: the invariant with a step (empty memory runs JNS 0), and an
ended and an idle state. -/
theorem witness_invariant_and_ends :
    State.reset.Inv ∧ (nextSat (step State.reset) fun t => t.mem = [(0, 1)] ∧ t.pc = 1) ∧
    ({ State.reset with runState := .halted, halted := true } : State).Ended ∧ State.powerOn.runState = .idle :=
  ⟨reset_inv, by decide, .inl rfl, rfl⟩

/-- For `RunningCoreAlwaysSteps`: a reserved condition, a legal one, and PC beyond memory. -/
theorem witness_RunningCoreAlwaysSteps :
    (atTop 0x8401).nextInstr = .skipcond 0x401 ∧ (0x401 : Operand) ∉ conditionCodes ∧
    (atTop 0x8400).nextInstr = .skipcond 0x400 ∧ (0x400 : Operand) ∈ conditionCodes ∧
    4096 ≤ (boot 4096 0 []).pc.toNat := by decide

/-- For `HostMovesKeepTheInvariant`: the invariant with each move, and the failing ones. -/
theorem witness_HostMovesKeepTheInvariant :
    State.powerOn.Inv ∧
    hostLoadRange State.powerOn [7] = .done { State.powerOn with mem := [(0, 7)] } () ∧
    hostLoadRange State.powerOn [7, 65536] = .failed { State.powerOn with mem := [(0, 7)] } (.valueOverflow 65536) ∧
    hostStartRun State.powerOn .continuous = .done State.reset () ∧
    hostStore State.powerOn 7 0 = .done { State.powerOn with mem := [(0, 7)] } () ∧
    hostStore State.powerOn 65536 0 = .failed State.powerOn (.valueOverflow 65536) ∧
    hostLoad State.powerOn 0 = .done State.powerOn 0 ∧
    hostLoad State.powerOn 4096 = .failed State.powerOn (.addressOutOfBounds 4096) ∧
    hostSerializeRange State.powerOn = .done State.powerOn [0] ∧ State.reset.runState = .running ∧
    hostExamine State.powerOn = .done State.powerOn State.powerOn ∧
    hostOutcome State.powerOn = .done State.powerOn ⟨.idle, none, []⟩ ∧
    hostAssembleWith '#' "HALT".toList State.powerOn = .assembled { State.powerOn with mem := [(0, 0x7000)] } :=
  ⟨powerOn_inv, by decide⟩

/-- For `HostMovesKeepTheInvariant`, the acknowledgment: the invariant at a closed gate. -/
theorem witness_acknowledge :
    ({ State.reset with mode := .singleStep, atGate := true } : State).Inv ∧
    hostAcknowledge { State.reset with mode := .singleStep, atGate := true } =
      .done { State.reset with mode := .singleStep } () :=
  ⟨⟨by decide, by simp [State.StatusAgrees, State.reset], by simp [State.GateAgrees, State.reset],
    by simp [State.NoOverflowFault, State.reset], by simp [State.MarValid, State.reset]⟩, by decide⟩

/-- For `HostMovesKeepTheInvariant`, the answer: the invariant where the core is blocked in INPUT. -/
theorem witness_answer :
    (atTop 0x5000).Inv ∧ hostAnswer (atTop 0x5000) ⟨false, 7⟩ = .done { atTop 0x5000 with inputs := [⟨false, 7⟩] } () :=
  ⟨⟨by decide, by simp [State.StatusAgrees, atTop, boot, State.reset], by simp [State.GateAgrees, atTop, boot, State.reset],
    by simp [State.NoOverflowFault, atTop, boot, State.reset], by simp [State.MarValid, atTop, boot, State.reset]⟩,
    by decide⟩

/-- For `HeadBoundsTheWrittenWords`: a store above HEAD. -/
theorem witness_HeadBoundsTheWrittenWords :
    (nextSat (step (boot 0 7 [(0, 0x2FFF)])) fun t => t.head = 4095) ∧ (boot 0 7 [(0, 0x2FFF)]).head = 0 := by decide

/-- The premise `ZeroAboveHead` of the same statement holds at reset. -/
theorem witness_ZeroAboveHead : State.reset.ZeroAboveHead := fun _ _ => rfl

/-- For `OutputSequenceOnlyGrows`: a cycle with OUTPUT, one without, one that does not fetch. -/
theorem witness_OutputSequenceOnlyGrows :
    (nextSat (step (atTop 0x6000)) fun t => t.out = [0]) ∧ (atTop 0x6000).nextInstr = .output 0 ∧
    (nextSat (step (atTop 0xA000)) fun t => t.out = []) ∧ (atTop 0xA000).nextInstr = .clear 0 ∧
    (nextSat (step (boot 4096 0 [])) fun t => t.out = []) := by decide

/-- For `SingleStepChangesNothing`. -/
theorem witness_SingleStepChangesNothing : (atTop 0xA000).atGate = false := by decide

/-- For `StepGateWaitsForTheHost`: a single-step cycle after which the run goes on. -/
theorem witness_StepGateWaitsForTheHost :
    nextSat (step { atTop 0xA000 with mode := .singleStep }) fun t => t.runState = .running ∧ t.mode = .singleStep := by
  decide

/-- For `RunStartResetsRegistersAndKeepsMemory`: no run in progress, and one. -/
theorem witness_RunStart : State.powerOn.runState ≠ .running ∧ State.reset.runState = .running := by decide

/-- For `UnwrittenRegistersReadZero`: a program whose first instruction is OUTPUT; a step that writes none of AC, InReg
and OutReg, all 0; a Fetch that raises with MBR and IR 0; the host's two moves during a run. -/
theorem witness_UnwrittenRegistersReadZero :
    ({ State.powerOn with mem := [(0, 0x6000)] } : State).mem.read 0 = encodeWord (.output 0) ∧
    (nextSat (step (boot 0 0 [(0, 0x9005)])) fun t => t.ac = 0 ∧ t.inReg = 0 ∧ t.outReg = 0) ∧
    (boot 0 0 [(0, 0x9005)]).nextInstr = .jump 5 ∧ (boot 0 0 []).ac = 0 ∧ (boot 0 0 []).inReg = 0 ∧
    (boot 0 0 []).outReg = 0 ∧ 4096 ≤ (boot 4096 0 []).pc.toNat ∧ (boot 4096 0 []).mbr = 0 ∧ (boot 4096 0 []).ir = 0 ∧
    (nextSat (step (boot 4096 0 [])) fun t => t.mbr = 0 ∧ t.pc = 4096) ∧
    hostAcknowledge { State.reset with mode := .singleStep, atGate := true } =
      .done { State.reset with mode := .singleStep } () := by decide

/-- For `StoreThenLoad`, clause by clause: the ends of the ranges of address and value. -/
theorem witness_StoreThenLoad :
    State.powerOn.mem.wf ∧ State.powerOn.runState ≠ .running ∧ 4095 ≤ 4095 ∧ 65535 ≤ 65535 ∧ 4096 ≤ 4096 ∧
    65535 < 65536 := by decide

/-- For `LoadReturnsTheStoredWord`: a host load that answers. -/
theorem witness_LoadReturnsTheStoredWord : hostLoad State.powerOn 4095 = .done State.powerOn 0 := by decide

/-- For `LoadRangeWritesFromZero`: the longest sequence that fits, and the first that does not. -/
theorem witness_LoadRangeWritesFromZero :
    State.powerOn.mem.wf ∧ State.powerOn.runState ≠ .running ∧
    (∀ v ∈ List.replicate 4096 65535, v ≤ 65535) ∧ (List.replicate 4096 65535).length ≤ 4096 ∧
    (∀ v ∈ List.replicate 4097 0, v ≤ 65535) ∧ 4096 < (List.replicate 4097 0).length :=
  ⟨by decide, by decide, fun v hv => by rw [List.eq_of_mem_replicate hv], by rw [List.length_replicate],
    fun v hv => by rw [List.eq_of_mem_replicate hv]; omega, by rw [List.length_replicate]; omega⟩

/-- For `StoreIsSeenByTheNextFetch`: a STORE to the next address. -/
theorem witness_StoreIsSeenByTheNextFetch :
    (boot 1 0x6000 [(1, 0x2002), (2, 0x7000)]).mem.wf ∧ (boot 1 0x6000 [(1, 0x2002), (2, 0x7000)]).Ready ∧
    (boot 1 0x6000 [(1, 0x2002), (2, 0x7000)]).nextInstr = .store 2 ∧ (2 : Operand).toNat = (1 : Word).toNat + 1 ∧
    (nextSat (step (boot 1 0x6000 [(1, 0x2002), (2, 0x7000)])) fun t => t.nextInstr = .output 0) :=
  ⟨by decide, ⟨rfl, rfl, show 1 < 4096 by decide⟩, by decide⟩

/-- For `SourceExampleAssembles`: a marker that does not stand in the text. -/
theorem witness_SourceExampleAssembles : '#' ∉ "INPUT\nSTORE A\nLOAD A\nOUTPUT\nHALT\nA, HEX 0".toList := by decide

/-- For `SerializeThenLoadReproducesTheStore`: a store with no run in progress and only 0 above HEAD. -/
theorem witness_SerializeThenLoadReproducesTheStore :
    State.powerOn.runState ≠ .running ∧ State.powerOn.ZeroAboveHead := ⟨by decide, fun _ _ => rfl⟩

/-- For `AssemblerRejectsBadLines`, the two clauses: S7's source, and a bad operand token. -/
theorem witness_AssemblerRejectsBadLines :
    (sourceLines '#' "INPUT\n\nA,, HEX 0".toList = [⟨1, "INPUT".toList⟩] ++ ⟨3, "A,, HEX 0".toList⟩ :: [] ∧
      pass1 [⟨1, "INPUT".toList⟩] 0 [] = .ok ([], [⟨1, .bare 5⟩]) ∧ 2 ≤ "A,, HEX 0".toList.count ',') ∧
    pass1 (sourceLines '#' "LOAD 5".toList) 0 [] = .ok ([], [] ++ ⟨1, .operandToken 1 ['5']⟩ :: []) ∧
    parseNumber 16 ['5'] = some 5 := by decide

/-- For `AssemblyIsOneWordPerLine`: an assembly that succeeds. -/
theorem witness_AssemblyIsOneWordPerLine :
    State.powerOn.mem.wf ∧ State.powerOn.runState ≠ .running ∧ assembled "HALT\n\nHEX 7" = .ok [0x7000, 7] := by decide

end Sys2Proof.Tests
end

section
/-! Proofs about the state (10_state.md): which registers a step leaves as they are, and O45. -/

namespace Sys2Proof.Machine

/-! ### Decoding an encoded instruction -/

theorem opcodeField_encodeWord (i : Instr) : opcodeField (encodeWord i) = i.opcode := opcodeField_assembleWord _ _

theorem operandField_encodeWord (i : Instr) : operandField (encodeWord i) = i.operand := operandField_assembleWord _ _

/-- The instruction's own row is selected, with its own operand (30_encoding.md R91). -/
theorem decodeWord_encodeWord (i : Instr) : decodeWord (encodeWord i) = i := by
  rw [decodeWord, opcodeField_encodeWord, operandField_encodeWord]
  cases i <;> rfl

/-! ### The registers an instruction's effect leaves as they are -/

/-- SKIPCOND writes MAR and PC only, whether it skips or not. -/
theorem effect_skipcond_frame (c : Operand) (s : State) :
    (effect (.skipcond c) s).ac = s.ac ∧ (effect (.skipcond c) s).inReg = s.inReg ∧
      (effect (.skipcond c) s).outReg = s.outReg := by
  simp only [effect]
  split <;> exact ⟨rfl, rfl, rfl⟩

/-- ADDI leaves InReg and OutReg, whether its pointer is an address or not. -/
theorem effect_addi_frame (x : Operand) (s : State) :
    (effect (.addi x) s).inReg = s.inReg ∧ (effect (.addi x) s).outReg = s.outReg := by
  simp only [effect]
  split <;> exact ⟨rfl, rfl⟩

/-- AC has six writers (10_state.md section 2). -/
theorem effect_ac_of_not_writer {i : Instr} (s : State)
    (h : ∀ x, i ≠ .load x ∧ i ≠ .add x ∧ i ≠ .subt x ∧ i ≠ .input x ∧ i ≠ .clear x ∧ i ≠ .addi x) :
    (effect i s).ac = s.ac := by
  cases i with
  | load x | add x | subt x | input x | clear x | addi x => simpa using h x
  | skipcond c => exact (effect_skipcond_frame c s).1
  | jns | store | output | halt | jump | jumpi | undefinedD | undefinedE | undefinedF => rfl

/-- InReg has one writer, INPUT (10_state.md section 2). -/
theorem effect_inReg_of_not_input {i : Instr} (s : State) (h : ∀ x, i ≠ .input x) : (effect i s).inReg = s.inReg := by
  cases i with
  | input x => exact absurd rfl (h x)
  | skipcond c => exact (effect_skipcond_frame c s).2.1
  | addi x => exact (effect_addi_frame x s).1
  | jns | load | store | add | subt | output | halt | jump | clear | jumpi | undefinedD | undefinedE | undefinedF => rfl

/-- OutReg has one writer, OUTPUT (10_state.md section 2). -/
theorem effect_outReg_of_not_output {i : Instr} (s : State) (h : ∀ x, i ≠ .output x) :
    (effect i s).outReg = s.outReg := by
  cases i with
  | output x => exact absurd rfl (h x)
  | input x => simp [effect]
  | skipcond c => exact (effect_skipcond_frame c s).2.2
  | addi x => exact (effect_addi_frame x s).2
  | jns | load | store | add | subt | halt | jump | clear | jumpi | undefinedD | undefinedE | undefinedF => rfl

/-! ### The registers a step leaves as they are -/

theorem step_ac_of_not_writer {s t : State} (h : step s = .next t)
    (hi : s.pc.toNat < 4096 → ∀ x, s.nextInstr ≠ .load x ∧ s.nextInstr ≠ .add x ∧ s.nextInstr ≠ .subt x ∧
      s.nextInstr ≠ .input x ∧ s.nextInstr ≠ .clear x ∧ s.nextInstr ≠ .addi x) :
    t.ac = s.ac := by
  obtain ⟨-, -, ⟨-, rfl⟩ | ⟨hp, rfl, -⟩⟩ := step_eq_next h
  · rfl
  · simpa using effect_ac_of_not_writer s.fetched (hi hp)

theorem step_inReg_of_not_input {s t : State} (h : step s = .next t)
    (hi : s.pc.toNat < 4096 → ∀ x, s.nextInstr ≠ .input x) : t.inReg = s.inReg := by
  obtain ⟨-, -, ⟨-, rfl⟩ | ⟨hp, rfl, -⟩⟩ := step_eq_next h
  · rfl
  · simpa using effect_inReg_of_not_input s.fetched (hi hp)

theorem step_outReg_of_not_output {s t : State} (h : step s = .next t)
    (hi : s.pc.toNat < 4096 → ∀ x, s.nextInstr ≠ .output x) : t.outReg = s.outReg := by
  obtain ⟨-, -, ⟨-, rfl⟩ | ⟨hp, rfl, -⟩⟩ := step_eq_next h
  · rfl
  · simpa using effect_outReg_of_not_output s.fetched (hi hp)

/-- A cycle whose Fetch raises writes MAR and the fault, and nothing else (40_instruction_cycle.md R140). -/
theorem step_eq_of_fetch_raises {s t : State} (h : step s = .next t) (hp : 4096 ≤ s.pc.toNat) :
    t = (s.setMar s.pc).recordFault (.addressOutOfBounds s.pc.toNat) := by
  obtain ⟨-, -, ⟨-, ht⟩ | ⟨hlt, -, -⟩⟩ := step_eq_next h
  · exact ht
  · exact absurd hp (Nat.not_le.mpr hlt)

/-! ### The first cycle of a run, and the host's moves during it -/

theorem step_of_ready {s : State} (h : s.Ready) : step s = endCycle (exec s.nextInstr s.fetched) := runCycle_of_ready h

theorem runStart_ready (s : State) (m : RunMode) : (runStart s m).Ready := ⟨rfl, rfl, by simp⟩

theorem step_of_ready_output {s : State} {x : Operand} (h : s.Ready) (hi : s.nextInstr = .output x) :
    step s = .next (finishCycle (effect (.output x) s.fetched)) := by
  rw [step_of_ready h, hi]
  rfl

/-- OUTPUT as the first instruction of a run appends the 0 that AC holds, and is no error (10_state.md R29). -/
theorem step_runStart_output {s : State} {x : Operand} (m : RunMode) (h : s.mem.read 0 = encodeWord (.output x)) :
    ∃ t, step (runStart s m) = .next t ∧ t.out = [0] ∧ t.fault = none := by
  have hi : (runStart s m).nextInstr = .output x := (congrArg decodeWord h).trans (decodeWord_encodeWord _)
  exact ⟨_, step_of_ready_output (runStart_ready s m) hi, by simp [effect], by simp [effect]⟩

/-- Everything the host's acknowledgment can do. -/
theorem hostAcknowledge_eq_done {s t : State} (h : hostAcknowledge s = .done t ()) :
    s.atGate = true ∧ t = { s with atGate := false } := by
  unfold hostAcknowledge at h
  split at h
  · exact ⟨‹_›, by simpa using h.symm⟩
  · cases h

/-- Settles O45: the run start clears all seven registers, a step changes one only by its writers, and the host's answer
and acknowledgment change none. -/
theorem unwrittenRegistersReadZero : Obligations.UnwrittenRegistersReadZero := by
  refine ⟨fun s m => ?_, fun s t h => ⟨fun h0 hi => ?_, fun h0 hi => ?_, fun h0 hi => ?_, fun hp => ?_⟩,
    fun s t v h => ?_⟩
  · exact ⟨rfl, rfl, rfl, rfl, rfl, rfl, rfl, fun x hx => step_runStart_output m hx⟩
  · exact (step_ac_of_not_writer h hi).trans h0
  · exact (step_inReg_of_not_input h hi).trans h0
  · exact (step_outReg_of_not_output h hi).trans h0
  · rw [step_eq_of_fetch_raises h hp]
    exact ⟨id, id, rfl⟩
  · rcases h with h | h
    · obtain ⟨-, rfl⟩ := hostAnswer_eq_done h
      exact ⟨rfl, rfl, rfl, rfl, rfl, rfl, rfl⟩
    · obtain ⟨-, rfl⟩ := hostAcknowledge_eq_done h
      exact ⟨rfl, rfl, rfl, rfl, rfl, rfl, rfl⟩

end Sys2Proof.Machine
end

section
/-! Proofs about the memory store (20_memory.md): the host's load, store, serializeRange and loadRange, and O46, O47
and O49. -/

namespace Sys2Proof.Machine

/-! ### The host's load and store -/

theorem whenNotRunning_of_ne {α : Type} {s : State} (h : s.runState ≠ .running) (move : HostOutcome α) :
    whenNotRunning s move = move := if_neg h

theorem memWrite_of_ge {s : State} {a : Nat} (v : Nat) (h : Config.memWords ≤ a) :
    memWrite s a v = .error (.addressOutOfBounds a) := if_pos h

theorem memWrite_of_overflow {s : State} {a v : Nat} (ha : a < Config.memWords) (hv : Config.maxWord < v) :
    memWrite s a v = .error (.valueOverflow v) := by
  rw [memWrite, if_neg (Nat.not_le.mpr ha), if_pos hv]

theorem hostLoad_of_lt {s : State} {a : Nat} (hs : s.runState ≠ .running) (h : a < Config.memWords) :
    hostLoad s a = .done s (s.mem.read a) := by
  rw [hostLoad, whenNotRunning_of_ne hs, memRead_of_lt h]

theorem hostStore_of_le {s : State} {v a : Nat} (hs : s.runState ≠ .running) (ha : a < Config.memWords)
    (hv : v ≤ Config.maxWord) : hostStore s v a = .done (s.writeWord a (BitVec.ofNat 16 v)) () := by
  rw [hostStore, whenNotRunning_of_ne hs, memWrite_of_le ha hv]

/-- A store that the memory primitive rejects leaves the state as it was (20_memory.md R54). -/
theorem hostStore_of_error {s : State} {v a : Nat} {e : FatalError} (hs : s.runState ≠ .running)
    (h : memWrite s a v = .error e) : hostStore s v a = .failed s e := by
  rw [hostStore, whenNotRunning_of_ne hs, h]

/-- Everything a host load that answers can do. -/
theorem hostLoad_eq_done {s t : State} {a : Nat} {w : Word} (h : hostLoad s a = .done t w) :
    s.runState ≠ .running ∧ a < Config.memWords ∧ t = s ∧ w = s.mem.read a := by
  by_cases hs : s.runState = .running
  · rw [hostLoad, whenNotRunning, if_pos hs] at h
    cases h
  · by_cases ha : a < Config.memWords
    · rw [hostLoad_of_lt hs ha] at h
      cases h
      exact ⟨hs, ha, rfl, rfl⟩
    · rw [hostLoad, whenNotRunning_of_ne hs, memRead_of_ge (Nat.not_lt.mp ha)] at h
      cases h

theorem powerOn_read (a : Nat) : State.powerOn.mem.read a = 0 := rfl

/-! ### Storing values one after another -/

/-- The state after the values are stored one after another from an address, where every store succeeds. -/
def writeWords : List Nat → Nat → State → State
  | [], _, s => s
  | v :: vs, a, s => writeWords vs (a + 1) (s.writeWord a (BitVec.ofNat 16 v))

/-- `storeFrom` stores every value where all are words and the last address is valid (20_memory.md R63). -/
theorem storeFrom_of_le {vs : List Nat} {a : Nat} (s : State) (hv : ∀ v ∈ vs, v ≤ Config.maxWord)
    (ha : a + vs.length ≤ Config.memWords) : storeFrom vs a s = .done (writeWords vs a s) () := by
  induction vs generalizing a s with
  | nil => rfl
  | cons v vs ih =>
    obtain ⟨hv, hvs⟩ := List.forall_mem_cons.mp hv
    rw [List.length_cons] at ha
    rw [storeFrom, memWrite_of_le (by omega) hv]
    exact ih _ hvs (by omega)

theorem hostLoadRange_of_le {s : State} {vs : List Nat} (hs : s.runState ≠ .running)
    (hv : ∀ v ∈ vs, v ≤ Config.maxWord) (hn : vs.length ≤ Config.memWords) :
    hostLoadRange s vs = .done (writeWords vs 0 { s with head := 0 }) () := by
  rw [hostLoadRange, whenNotRunning_of_ne hs, storeFrom_of_le _ hv (by omega)]

@[simp] theorem writeWords_runState (vs : List Nat) (a : Nat) (s : State) :
    (writeWords vs a s).runState = s.runState := by
  induction vs generalizing a s with
  | nil => rfl
  | cons v vs ih => rw [writeWords, ih, writeWord_runState]

/-- The addresses outside those written read as before. -/
theorem writeWords_read_outside {vs : List Nat} {a b : Nat} (s : State) (h : b < a ∨ a + vs.length ≤ b) :
    (writeWords vs a s).mem.read b = s.mem.read b := by
  induction vs generalizing a s with
  | nil => rfl
  | cons v vs ih =>
    rw [List.length_cons] at h
    rw [writeWords, ih _ (by omega), writeWord_mem, Memory.read_write_ne _ _ (by omega)]

/-- The `k`-th value stands at the `k`-th address written. -/
theorem writeWords_read_getElem? {vs : List Nat} {a k v : Nat} {s : State} (hw : s.mem.wf)
    (ha : a + vs.length ≤ Config.memWords) (hk : vs[k]? = some v) :
    (writeWords vs a s).mem.read (a + k) = BitVec.ofNat 16 v := by
  induction vs generalizing a k s with
  | nil => cases hk
  | cons u vs ih =>
    rw [List.length_cons] at ha
    cases k with
    | zero =>
      obtain rfl : u = v := by simpa using hk
      rw [writeWords, writeWords_read_outside _ (.inl (by omega))]
      exact Memory.read_write_self hw a _
    | succ k =>
      have hw' : (s.writeWord a (BitVec.ofNat 16 u)).mem.wf := Memory.write_wf hw (by omega)
      rw [writeWords, ← ih hw' (a := a + 1) (by omega) hk, Nat.succ_add_eq_add_succ]

/-- HEAD is the greater of HEAD and the last address written, where the first is at most the one after HEAD. -/
theorem writeWords_head_toNat {vs : List Nat} {a : Nat} {s : State} (ha : a + vs.length ≤ Config.memWords)
    (hh : a ≤ s.head.toNat + 1) : (writeWords vs a s).head.toNat = max s.head.toNat (a + vs.length - 1) := by
  induction vs generalizing a s with
  | nil => simp only [writeWords, List.length_nil]; omega
  | cons v vs ih =>
    rw [List.length_cons] at ha ⊢
    have hhead := writeWord_head_toNat s (BitVec.ofNat 16 v) (a := a) (by omega)
    rw [writeWords, ih (by omega) (by omega), hhead]
    omega

/-! ### The words `serializeRange` gives -/

@[simp] theorem serializeRange_length (s : State) : (serializeRange s).length = s.head.toNat + 1 := by
  simp [serializeRange]

theorem serializeRange_getElem? {s : State} {a : Nat} (h : a ≤ s.head.toNat) :
    (serializeRange s)[a]? = some (s.mem.read a) := by
  rw [serializeRange, List.getElem?_map, List.getElem?_range (Nat.lt_succ_of_le h)]
  rfl

theorem hostSerializeRange_of_ne {s : State} (h : s.runState ≠ .running) :
    hostSerializeRange s = .done s (serializeRange s) := whenNotRunning_of_ne h _

/-- The state after loadRange has put the words of `s` up to HEAD into the power-on store (20_memory.md R64). -/
def reloaded (s : State) : State := writeWords ((serializeRange s).map BitVec.toNat) 0 State.powerOn

theorem serialized_le_maxWord (s : State) : ∀ v ∈ (serializeRange s).map BitVec.toNat, v ≤ Config.maxWord := by
  intro v hv
  obtain ⟨w, -, rfl⟩ := List.mem_map.mp hv
  exact Nat.le_of_lt_succ w.isLt

/-- HEAD holds an address, so the words up to it fit in the memory. -/
theorem serialized_length_le (s : State) : ((serializeRange s).map BitVec.toNat).length ≤ Config.memWords := by
  rw [List.length_map, serializeRange_length]
  exact s.head.isLt

theorem hostLoadRange_serialized (s : State) :
    hostLoadRange State.powerOn ((serializeRange s).map BitVec.toNat) = .done (reloaded s) () :=
  hostLoadRange_of_le (by decide) (serialized_le_maxWord s) (serialized_length_le s)

theorem reloaded_runState (s : State) : (reloaded s).runState ≠ .running := by
  rw [reloaded, writeWords_runState]
  decide

theorem reloaded_head (s : State) : (reloaded s).head = s.head := by
  apply BitVec.eq_of_toNat_eq
  have hlen := serialized_length_le s
  rw [reloaded, writeWords_head_toNat (by omega) (by omega), List.length_map, serializeRange_length]
  exact (Nat.zero_max _).trans (by omega)

theorem reloaded_read_of_le {s : State} {a : Nat} (h : a ≤ s.head.toNat) :
    (reloaded s).mem.read a = s.mem.read a := by
  have hlen := serialized_length_le s
  have hword : ((serializeRange s).map BitVec.toNat)[a]? = some (s.mem.read a).toNat := by
    rw [List.getElem?_map, serializeRange_getElem? h]
    rfl
  have hread := writeWords_read_getElem? (a := 0) reset_memory_wf.2 (by omega) hword
  rwa [Nat.zero_add, BitVec.ofNat_toNat, BitVec.setWidth_eq] at hread

theorem reloaded_read_of_gt {s : State} {a : Nat} (h : s.head.toNat < a) : (reloaded s).mem.read a = 0 := by
  rw [reloaded, writeWords_read_outside, powerOn_read]
  rw [List.length_map, serializeRange_length]
  omega

/-! ### The statements -/

/-- Settles O46: the written word reads back, the frame is the raw memory's, and each failing store is `memWrite`'s
error. -/
theorem storeThenLoad : Obligations.StoreThenLoad := by
  intro s v a hw hs
  refine ⟨fun ha hv => ?_, fun ha => ?_, fun ha hv => ?_⟩
  · have ha : a < Config.memWords := Nat.lt_succ_of_le ha
    have hload := hostLoad_of_lt (s := s.writeWord a (BitVec.ofNat 16 v)) hs ha
    rw [writeWord_mem, Memory.read_write_self hw] at hload
    have hword : (BitVec.ofNat 16 v).toNat = v :=
      (BitVec.toNat_ofNat v 16).trans (Nat.mod_eq_of_lt (Nat.lt_succ_of_le hv))
    exact ⟨_, hostStore_of_le hs ha hv, hload, hword, writeWord_head_toNat s _ ha,
      fun b hb => Memory.read_write_ne s.mem _ hb⟩
  · exact hostStore_of_error hs (memWrite_of_ge v ha)
  · exact hostStore_of_error hs (memWrite_of_overflow (Nat.lt_succ_of_le ha) hv)

/-- Settles O49: loadRange into the power-on store writes each word up to HEAD and nothing above it. -/
theorem serializeThenLoadReproducesTheStore : Obligations.SerializeThenLoadReproducesTheStore := by
  intro s hs
  refine ⟨reloaded s, hostSerializeRange_of_ne hs, hostLoadRange_serialized s, fun a ha => ?_, reloaded_head s,
    fun hz a => ?_⟩
  · have hlt : a < Config.memWords := Nat.lt_of_le_of_lt ha s.head.isLt
    rw [hostLoad_of_lt (reloaded_runState s) hlt, reloaded_read_of_le ha]
  · rcases Nat.lt_or_ge s.head.toNat a with ha | ha
    · rw [reloaded_read_of_gt ha, hz a ha]
    · exact reloaded_read_of_le ha

/-- Settles O47: the two cases of MemRead, the empty memory of power-on, and what an answered host load can do. -/
theorem loadReturnsTheStoredWord : Obligations.LoadReturnsTheStoredWord := by
  refine ⟨fun m a => ?_, fun a ha => ?_, decodeWord_encodeWord (.jns 0), fun s t a w h => ?_⟩
  · split
    · exact memRead_of_ge ‹_›
    · exact memRead_of_lt (Nat.not_le.mp ‹_›)
  · rw [memRead_of_lt (Nat.lt_succ_of_le ha), powerOn_read]
  · obtain ⟨-, -, rfl, -⟩ := hostLoad_eq_done h
    rfl

end Sys2Proof.Machine
end

section
/-! Proofs about the encoding (30_encoding.md Part A): the two fields of a decoded word, the decoder as the encoder's
inverse, the masks of the opcode map, and O1, O2 and O3. -/

namespace Sys2Proof.Machine

/-! ### The fields of a decoded word -/

@[simp] theorem decodeWord_opcode (w : Word) : (decodeWord w).opcode = opcodeField w := by
  rw [decodeWord]
  generalize opcodeField w = op, operandField w = x
  apply BitVec.eq_of_toNat_eq
  have hlt : op.toNat < 16 := op.isLt
  split
  case h_16 =>
    show 15 = op.toNat
    simp only [imp_false] at *
    omega
  all_goals exact Eq.symm ‹_›

@[simp] theorem decodeWord_operand (w : Word) : (decodeWord w).operand = operandField w := by
  rw [decodeWord]
  split <;> rfl

/-- The decoder keeps every bit of a word (30_encoding.md R91). -/
theorem encodeWord_decodeWord (w : Word) : encodeWord (decodeWord w) = w := by
  rw [encodeWord, decodeWord_opcode, decodeWord_operand, assembleWord_fields]

/-- Decoding is the inverse of encoding (30_encoding.md R91). -/
theorem decodeWord_eq_iff {w : Word} {i : Instr} : decodeWord w = i ↔ encodeWord i = w :=
  ⟨fun h => h ▸ encodeWord_decodeWord w, fun h => h ▸ decodeWord_encodeWord i⟩

/-! ### The masks 0xFFF and 0xF000 -/

/-- A bitwise and acts on the two fields separately. -/
theorem and_eq_assembleWord (w v : Word) :
    w &&& v = assembleWord (opcodeField w &&& opcodeField v) (operandField w &&& operandField v) := by
  rw [← assembleWord_fields (w &&& v)]
  simp only [opcodeField, operandField, BitVec.extractLsb'_and]

/-- Masking with 0xFFF keeps the operand field (30_encoding.md R91). -/
theorem and_operandMask (w : Word) : w &&& 0xFFF = assembleWord 0 (operandField w) := by
  have hop : opcodeField 0xFFF = 0#4 := rfl
  have hx : operandField 0xFFF = BitVec.allOnes 12 := rfl
  rw [and_eq_assembleWord, hop, hx, BitVec.and_zero, BitVec.and_allOnes]
  rfl

/-- Masking with 0xF000 keeps the opcode field (30_encoding.md R84). -/
theorem and_opcodeMask (w : Word) : w &&& 0xF000 = assembleWord (opcodeField w) 0 := by
  have hop : opcodeField 0xF000 = BitVec.allOnes 4 := rfl
  have hx : operandField 0xF000 = 0#12 := rfl
  rw [and_eq_assembleWord, hop, hx, BitVec.and_zero, BitVec.and_allOnes]
  rfl

theorem and_opcodeMask_eq_iff {w : Word} {op : Opcode} : w &&& 0xF000 = assembleWord op 0 ↔ opcodeField w = op := by
  rw [and_opcodeMask]
  refine ⟨fun h => ?_, fun h => h ▸ rfl⟩
  rw [← opcodeField_assembleWord (opcodeField w) 0, h, opcodeField_assembleWord]

/-- A row of the opcode map: the masked word selects the constructor with that opcode (30_encoding.md R84). -/
theorem and_opcodeMask_eq_iff_decodeWord {row : Operand → Instr} {op : Opcode}
    (hrow : ∀ x, encodeWord (row x) = assembleWord op x) (w : Word) :
    w &&& 0xF000 = assembleWord op 0 ↔ ∃ x, decodeWord w = row x := by
  rw [and_opcodeMask_eq_iff]
  constructor
  · rintro rfl
    exact ⟨operandField w, decodeWord_eq_iff.mpr ((hrow _).trans (assembleWord_fields w))⟩
  · rintro ⟨x, h⟩
    rw [← decodeWord_eq_iff.mp h, hrow, opcodeField_assembleWord]

/-- The encoder's formula of R91 is `assembleWord` of the opcode and the operand word's low 12 bits. -/
theorem shiftLeft_or_and_operandMask (op : Opcode) (n : Word) :
    (op.setWidth 16 <<< 12) ||| (n &&& 0xFFF) = assembleWord op (operandField n) := by
  rw [and_operandMask]
  simp [assembleWord]

theorem operandField_eq_setWidth (w : Word) : operandField w = w.setWidth 12 := by
  apply BitVec.eq_of_toNat_eq
  simp [operandField]

/-! ### The statements -/

/-- Settles O1: the formula of R91 is `assembleWord` of the two fields, and `decodeWord` is its inverse. -/
theorem decodeInvertsEncode : Obligations.DecodeInvertsEncode := by
  refine ⟨fun op n _ => ?_, fun i => ?_, encodeWord_decodeWord⟩
  · rw [shiftLeft_or_and_operandMask, decodeWord_opcode, decodeWord_operand, opcodeField_assembleWord,
      operandField_assembleWord]
    exact ⟨rfl, operandField_eq_setWidth n, encodeWord_decodeWord _⟩
  · rw [encode, decode, decodeWord_encodeWord]

/-- Settles O2: each constructor is the row of its opcode. -/
theorem opcodeMapSelectsTheInstruction : Obligations.OpcodeMapSelectsTheInstruction := by
  intro w
  have row {c : Operand → Instr} {op : Opcode} (hc : ∀ x, encodeWord (c x) = assembleWord op x) :
      w &&& 0xF000 = assembleWord op 0 ↔ ∃ x, decodeWord w = c x := and_opcodeMask_eq_iff_decodeWord hc w
  exact ⟨row (op := 0x0) fun _ => rfl, row (op := 0x1) fun _ => rfl, row (op := 0x2) fun _ => rfl,
    row (op := 0x3) fun _ => rfl, row (op := 0x4) fun _ => rfl, row (op := 0x5) fun _ => rfl,
    row (op := 0x6) fun _ => rfl, row (op := 0x7) fun _ => rfl, row (op := 0x8) fun _ => rfl,
    row (op := 0x9) fun _ => rfl, row (op := 0xA) fun _ => rfl, row (op := 0xB) fun _ => rfl,
    row (op := 0xC) fun _ => rfl, row (op := 0xD) fun _ => rfl, row (op := 0xE) fun _ => rfl,
    row (op := 0xF) fun _ => rfl⟩

/-- Settles O3: each of the six words is the encoding of its instruction, and the decoder inverts it. -/
theorem sourceEncodingsDecode : Obligations.SourceEncodingsDecode :=
  ⟨decodeWord_encodeWord (.input 0), rfl, decodeWord_encodeWord (.store 5), rfl, decodeWord_encodeWord (.load 5), rfl,
    decodeWord_encodeWord (.output 0), rfl, decodeWord_encodeWord (.halt 0), rfl, decodeWord_encodeWord (.jns 0), rfl⟩

end Sys2Proof.Machine
end

section
/-! Proofs about the assembler (30_encoding.md Part B): text cut at a character, line numbers, what stops a pass, the
comment marker, and O53 and O52. -/

namespace Sys2Proof.Machine

/-! ### Text cut at a character -/

theorem splitOnChar_ne_nil (sep : Char) (text : List Char) : splitOnChar sep text ≠ [] := by
  cases text with
  | nil => exact List.cons_ne_nil _ _
  | cons c cs =>
    rw [splitOnChar]
    split
    · exact List.cons_ne_nil _ _
    · split <;> exact List.cons_ne_nil _ _

/-- A character either ends the part before it or begins the first part of the rest. -/
theorem splitOnChar_cons (sep c : Char) (cs : List Char) :
    ∃ part parts, splitOnChar sep cs = part :: parts ∧
      splitOnChar sep (c :: cs) = if c = sep then [] :: part :: parts else (c :: part) :: parts := by
  obtain ⟨part, parts, h⟩ := List.exists_cons_of_ne_nil (splitOnChar_ne_nil sep cs)
  exact ⟨part, parts, h, by rw [splitOnChar, h]⟩

theorem splitOnChar_length (sep : Char) (text : List Char) :
    (splitOnChar sep text).length = text.count sep + 1 := by
  induction text with
  | nil => rfl
  | cons c cs ih =>
    obtain ⟨part, parts, htail, h⟩ := splitOnChar_cons sep c cs
    rw [htail] at ih
    rw [h]
    by_cases hc : c = sep <;> simpa [hc] using ih

theorem mem_of_mem_splitOnChar {sep : Char} {text part : List Char} {c : Char} (hp : part ∈ splitOnChar sep text)
    (hc : c ∈ part) : c ∈ text := by
  induction text generalizing part with
  | nil => simp_all [splitOnChar]
  | cons d ds ih =>
    obtain ⟨first, rest, htail, h⟩ := splitOnChar_cons sep d ds
    rw [htail] at ih
    rw [h] at hp
    split at hp
    · rcases List.mem_cons.mp hp with rfl | hp
      · cases hc
      · exact .tail d (ih hp hc)
    · rcases List.mem_cons.mp hp with rfl | hp
      · rcases List.mem_cons.mp hc with rfl | hc
        · exact .head ds
        · exact .tail d (ih (.head rest) hc)
      · exact .tail d (ih (.tail first hp) hc)

/-! ### Line numbers -/

/-- The first raw line is a line with its number, unless it is blank (R97). -/
theorem mem_numberLines_cons {marker : Char} {raw : List Char} {raws : List (List Char)} {n : Nat} {line : SourceLine} :
    line ∈ numberLines marker (raw :: raws) n ↔
      (line.text ≠ [] ∧ line.number = n ∧ preprocess marker raw = line.text) ∨
        line ∈ numberLines marker raws (n + 1) := by
  rw [numberLines]
  by_cases hblank : preprocess marker raw = []
  · simp only [hblank, List.isEmpty_nil, if_true]
    exact (or_iff_right fun ⟨htext, _, hraw⟩ => htext hraw.symm).symm
  · have hfirst : line = ⟨n, preprocess marker raw⟩ ↔
        line.text ≠ [] ∧ line.number = n ∧ preprocess marker raw = line.text := by
      constructor
      · rintro rfl
        exact ⟨hblank, rfl, rfl⟩
      · rintro ⟨-, hnumber, hraw⟩
        rw [hraw, ← hnumber]
    simp [hblank, hfirst]

/-- The lines with text are the raw lines that are not blank after preprocessing, numbered by their place (R96, R97). -/
theorem mem_numberLines {marker : Char} {raws : List (List Char)} {n : Nat} {line : SourceLine} :
    line ∈ numberLines marker raws n ↔
      line.text ≠ [] ∧ n ≤ line.number ∧
      ∃ raw, raws[line.number - n]? = some raw ∧ preprocess marker raw = line.text := by
  induction raws generalizing n with
  | nil => simp [numberLines]
  | cons raw raws ih =>
    rw [mem_numberLines_cons, ih]
    rcases Nat.lt_trichotomy line.number n with hlt | rfl | hgt
    · have hne : line.number ≠ n := by omega
      have hn : ¬ n ≤ line.number := by omega
      have hn' : ¬ n + 1 ≤ line.number := by omega
      simp [hne, hn, hn']
    · simp
    · have hne : line.number ≠ n := by omega
      have hs : line.number - n = (line.number - (n + 1)) + 1 := by omega
      simp [hs, hne, hgt.le, Nat.succ_le_of_lt hgt]

/-! ### What stops a pass -/

/-- More than one comma on a line (R98). -/
theorem splitLabel_of_two_le_count {text : List Char} (h : 2 ≤ text.count ',') :
    splitLabel text = .error .addressing := by
  have hlen := splitOnChar_length ',' text
  rw [splitLabel]
  split
  case h_3 => rfl
  all_goals
    rename_i hs
    rw [hs] at hlen
    simp only [List.length_cons, List.length_nil] at hlen
    omega

theorem pass1Line_of_splitLabel {book : AddressBook} {index : Nat} {text : List Char} {e : AsmErrorKind}
    (h : splitLabel text = .error e) : pass1Line book index text = .error e := by
  rw [pass1Line, h]

/-- Pass 1 stops at the first line it refuses, with that line's number (R108, R109). -/
theorem pass1_of_line_error {before after : List SourceLine} {line : SourceLine} {index : Nat}
    {book book' : AddressBook} {forms : List ParsedLine} {e : AsmErrorKind}
    (hb : pass1 before index book = .ok (book', forms))
    (he : ∀ i, pass1Line book' i line.text = .error e) :
    pass1 (before ++ line :: after) index book = .error ⟨e, line.number⟩ := by
  induction before generalizing index book book' forms with
  | nil =>
    cases hb
    rw [List.nil_append, pass1, he]
  | cons l ls ih =>
    rw [pass1] at hb
    rw [List.cons_append, pass1]
    split at hb
    · cases hb
    · split at hb
      · cases hb
      · rename_i hrest
        cases hb
        rw [ih hrest he]

/-- Pass 2 fails where it cannot fold a line. -/
theorem pass2_of_fold_error {book : AddressBook} {before after : List ParsedLine} {line : ParsedLine} {index : Nat}
    {kind : AsmErrorKind} (h : foldLine book line.form = .error kind) :
    ∃ e, pass2 book (before ++ line :: after) index = .error e := by
  induction before generalizing index with
  | nil => exact ⟨⟨kind, line.number⟩, by rw [List.nil_append, pass2, h]⟩
  | cons l ls ih =>
    obtain ⟨e, he⟩ := ih (index := index + 1)
    rw [List.cons_append, pass2, he]
    split
    · exact ⟨_, rfl⟩
    · split <;> exact ⟨_, rfl⟩

/-- An operand token that is no declared label and no condition code does not resolve (R105). -/
theorem resolveToken_error {book : AddressBook} {token : List Char} (hl : book.lookup token = none)
    (hn : ∀ v, parseNumber 16 token = some v → v ≠ 0 ∧ v ≠ 0x400 ∧ v ≠ 0x800) :
    ∃ kind, resolveToken book token = .error kind := by
  rw [resolveToken, hl]
  cases hv : parseNumber 16 token with
  | none =>
    by_cases h : (markedNumber 16 token).any fun v => v ∈ conditionNumbers
    · exact ⟨_, if_pos h⟩
    · exact ⟨_, if_neg h⟩
  | some v =>
    obtain ⟨h0, h4, h8⟩ := hn v hv
    have hc : (v : Int) ∉ conditionNumbers := by
      simp only [conditionNumbers, List.mem_cons, List.not_mem_nil, or_false]
      omega
    exact ⟨_, if_neg hc⟩

/-! ### The comment marker -/

theorem mem_of_mem_trim {text : List Char} {c : Char} (h : c ∈ trim text) : c ∈ text := by
  rw [trim, List.mem_reverse] at h
  have h := List.mem_reverse.mp ((List.dropWhile_sublist _).subset h)
  exact (List.dropWhile_sublist _).subset h

/-- A line without the comment marker is upper-cased and trimmed only (R96). -/
theorem preprocess_of_not_mem {marker : Char} {line : List Char} (h : marker ∉ line.map Char.toUpper) :
    preprocess marker line = trim (line.map Char.toUpper) := by
  rw [preprocess, List.takeWhile_eq_self_iff]
  intro c hc
  exact decide_eq_true fun he => h (he ▸ mem_of_mem_trim hc)

theorem numberLines_congr {m m' : Char} {raws : List (List Char)}
    (h : ∀ raw ∈ raws, preprocess m raw = preprocess m' raw) (n : Nat) :
    numberLines m raws n = numberLines m' raws n := by
  induction raws generalizing n with
  | nil => rfl
  | cons raw raws ih =>
    obtain ⟨hraw, hraws⟩ := List.forall_mem_cons.mp h
    rw [numberLines, numberLines, hraw, ih hraws]

/-- Two comment markers that do not stand in a source cut it into the same lines. -/
theorem sourceLines_of_not_mem {m m' : Char} {source : List Char} (h : m ∉ source.map Char.toUpper)
    (h' : m' ∉ source.map Char.toUpper) : sourceLines m source = sourceLines m' source := by
  refine numberLines_congr (fun raw hraw => ?_) 1
  have hsub : raw.map Char.toUpper ⊆ source.map Char.toUpper :=
    List.map_subset _ fun _ hc => mem_of_mem_splitOnChar hraw hc
  rw [preprocess_of_not_mem fun hm => h (hsub hm), preprocess_of_not_mem fun hm => h' (hsub hm)]

theorem hostAssembleWith_of_ok {marker : Char} {source : List Char} {s : State} {words : List Word}
    (hs : s.runState ≠ .running) (h : assembleWith marker source = .ok words) :
    hostAssembleWith marker source s = .assembled (storeWords words 0 s) := by
  rw [hostAssembleWith, if_neg hs, h]

/-! ### The statements -/

/-- Settles O53: a second comma stops pass 1 at its line; a token that does not resolve stops pass 2. -/
theorem assemblerRejectsBadLines : Obligations.AssemblerRejectsBadLines := by
  refine ⟨fun _ _ _ => mem_numberLines, fun marker source before after line book forms hsrc hb hcommas => ?_,
    fun marker source book before after number op token hpass hl hn => ?_⟩
  · have hline (i : Nat) : pass1Line book i line.text = .error .addressing :=
      pass1Line_of_splitLabel (splitLabel_of_two_le_count hcommas)
    rw [assembleWith, hsrc, pass1_of_line_error hb hline]
  · obtain ⟨kind, hkind⟩ := resolveToken_error hl hn
    have hfold : foldLine book (.operandToken op token) = .error kind := by
      rw [foldLine, hkind]
      rfl
    rw [assembleWith, hpass]
    exact pass2_of_fold_error hfold

/-- The source's example program of R120. -/
def exampleSource : List Char := "INPUT\nSTORE A\nLOAD A\nOUTPUT\nHALT\nA, HEX 0".toList

/-- The example after pass 1. -/
def exampleLines : List ParsedLine :=
  [⟨1, .bare 0x5⟩, ⟨2, .operandToken 0x2 ['A']⟩, ⟨3, .operandToken 0x1 ['A']⟩, ⟨4, .bare 0x6⟩, ⟨5, .bare 0x7⟩,
    ⟨6, .literal 0x0 16 ['0']⟩]

theorem pass1_exampleSource : pass1 (sourceLines '#' exampleSource) 0 [] = .ok ([(['A'], 5)], exampleLines) := by decide

theorem pass2_exampleLines :
    pass2 [(['A'], 5)] exampleLines 0 = .ok [0x5000, 0x2005, 0x1005, 0x6000, 0x7000, 0x0000] := by decide

theorem toUpper_exampleSource : exampleSource.map Char.toUpper = exampleSource := by decide

/-- Settles O52: without the marker in the text, the lines are those of any other such marker. -/
theorem sourceExampleAssembles : Obligations.SourceExampleAssembles := by
  intro marker hm source
  have hlines : sourceLines marker source = sourceLines '#' exampleSource := by
    refine sourceLines_of_not_mem (source := exampleSource) ?_ ?_ <;> rw [toUpper_exampleSource]
    · exact hm
    · decide
  have hpass : pass1 (sourceLines marker source) 0 [] = .ok ([(['A'], 5)], exampleLines) :=
    hlines ▸ pass1_exampleSource
  have hwords : assembleWith marker source = .ok [0x5000, 0x2005, 0x1005, 0x6000, 0x7000, 0x0000] := by
    rw [assembleWith, hpass]
    exact pass2_exampleLines
  exact ⟨hwords, ⟨_, hpass⟩, _, hostAssembleWith_of_ok (by decide) hwords, by decide⟩

end Sys2Proof.Machine
end

section
/-! Proofs about the instruction cycle (40_instruction_cycle.md): a Fetch that latches or raises, what a cycle makes of
HALTED, RUNSTATE and FAULT, and O5, O6 and O34. -/

namespace Sys2Proof.Machine

/-! ### Fetch, and when there is no cycle -/

/-- PC is the instruction's own address plus 1 after a Fetch: that sum does not wrap (R131). -/
theorem pc_add_one_toNat {s : State} (h : s.pc.toNat < 4096) : (s.pc + 1).toNat = s.pc.toNat + 1 :=
  BitVec.toNat_add_of_lt (y := 1) (show s.pc.toNat + 1 < 65536 by omega)

/-- A cycle whose Fetch raises ends there (R140). -/
theorem step_of_fetch_raises {s : State} (hr : s.runState = .running) (hg : s.atGate = false)
    (hp : Config.memWords ≤ s.pc.toNat) :
    step s = .next ((s.setMar s.pc).recordFault (.addressOutOfBounds s.pc.toNat)) := by
  simp [step, runCycle, hr, hg, fetch_of_ge hp]

/-- Instructions execute only while a run is in progress (R138). -/
theorem step_of_not_running {s : State} (h : s.runState ≠ .running) : step s = .fault (.notRunning s.runState) :=
  if_neg h

/-! ### HALTED, RUNSTATE and FAULT after Decode+Execute -/

/-- An instruction leaves RUNSTATE and FAULT, or records a fatal error (00_scope.md R12). -/
theorem effect_status_cases (i : Instr) (s : State) :
    ((effect i s).runState = s.runState ∧ (effect i s).fault = s.fault) ∨
      ((effect i s).runState = .faulted ∧ ∃ e, (effect i s).fault = some e) := by
  cases i with
  | addi x =>
    by_cases hp : (s.mem.read x.toNat).toNat < Config.memWords
    · rw [effect_addi_of_lt hp]
      exact .inl ⟨rfl, rfl⟩
    · rw [effect_addi_of_ge (Nat.not_lt.mp hp)]
      exact .inr ⟨rfl, _, rfl⟩
  | undefinedD | undefinedE | undefinedF => exact .inr ⟨rfl, _, rfl⟩
  | input x => exact .inl ⟨takeAnswer_runState _, takeAnswer_fault _⟩
  | skipcond c =>
    simp only [effect]
    split <;> exact .inl ⟨rfl, rfl⟩
  | jns | load | store | add | subt | output | halt | jump | clear | jumpi => exact .inl ⟨rfl, rfl⟩

/-- HALTED has one writer, HALT (10_state.md R30). -/
theorem effect_halted_of_not_halt {i : Instr} (s : State) (h : ∀ x, i ≠ .halt x) : (effect i s).halted = s.halted := by
  cases i with
  | halt x => exact absurd rfl (h x)
  | input x => exact takeAnswer_halted _
  | skipcond c | addi x =>
    simp only [effect]
    split <;> rfl
  | jns | load | store | add | subt | output | jump | clear | jumpi | undefinedD | undefinedE | undefinedF => rfl

/-! ### HALTED, RUNSTATE and FAULT after a step -/

/-- The run loop's reading of the two flags: a raise before a set HALTED (R130). -/
theorem finishCycle_runState (s : State) :
    (finishCycle s).runState =
      if s.runState = .faulted then .faulted else if s.halted then .halted else s.runState := by
  unfold finishCycle
  split_ifs <;> simp [*]

/-- While a run is in progress, HALTED is clear and no fault is recorded (10_state.md R32, R33). -/
theorem State.StatusAgrees.clear_of_running {s : State} (h : s.StatusAgrees) (hr : s.runState = .running) :
    s.halted = false ∧ s.fault = none := by
  obtain ⟨hhalted, hfaulted⟩ := h
  have hfault : s.fault = none := by simpa [hr] using hfaulted
  exact ⟨by simpa [hr, hfault] using hhalted, hfault⟩

/-- The next cycle executes a HALT. -/
def State.HaltsNext (s : State) : Prop := s.pc.toNat < 4096 ∧ ∃ x, s.nextInstr = .halt x

/-- The three ways a step can end: the run is over by HALT, over by a raise, or goes on (R130, R138). -/
theorem step_status_cases {s t : State} (hs : s.StatusAgrees) (h : step s = .next t) :
    (s.HaltsNext ∧ t.runState = .halted ∧ t.halted = true ∧ t.fault = none) ∨
      (¬ s.HaltsNext ∧ t.runState = .faulted ∧ t.halted = false ∧ ∃ e, t.fault = some e) ∨
      (¬ s.HaltsNext ∧ t.runState = .running ∧ t.halted = false ∧ t.fault = none) := by
  obtain ⟨hr, -, ⟨hp, rfl⟩ | ⟨hp, rfl, -⟩⟩ := step_eq_next h
  all_goals obtain ⟨hhalted, hfault⟩ := hs.clear_of_running hr
  · exact .inr (.inl ⟨fun hn => Nat.not_lt.mpr hp hn.1, rfl, hhalted, _, rfl⟩)
  · by_cases hi : ∃ x, s.nextInstr = .halt x
    · refine .inl ⟨⟨hp, hi⟩, ?_⟩
      obtain ⟨x, hx⟩ := hi
      simp [hx, effect, finishCycle_runState, hr, hfault]
    · have hclear : (effect s.nextInstr s.fetched).halted = false :=
        (effect_halted_of_not_halt _ (not_exists.mp hi)).trans hhalted
      refine .inr ?_
      rcases effect_status_cases s.nextInstr s.fetched with ⟨hrun, hnone⟩ | ⟨hrun, hsome⟩
      · exact .inr ⟨fun hn => hi hn.2, by simp [finishCycle_runState, hrun, hclear, hr], by simpa using hclear,
          by simpa [hfault] using hnone⟩
      · exact .inl ⟨fun hn => hi hn.2, by simp [finishCycle_runState, hrun], by simpa using hclear,
          by simpa using hsome⟩

/-! ### The statements -/

/-- Settles O34: a step ends in exactly one of three ways, each with its RUNSTATE, its FAULT and its instruction. -/
theorem runEndsOnlyByHaltOrRaise : Obligations.RunEndsOnlyByHaltOrRaise := by
  refine ⟨fun s t hs h => ?_, fun s h => step_of_not_running ?_⟩
  · have hclear : s.fault = none := (hs.status.clear_of_running (step_eq_next h).1).2
    change (_ ↔ s.HaltsNext) ∧ _
    obtain ⟨hn, hr, -, hf⟩ | ⟨hn, hr, -, hf⟩ | ⟨hn, hr, -, hf⟩ := step_status_cases hs.status h <;>
      simp [hn, hr, hf, hclear]
  · rcases h with (h | h) | h <;> simp [h]

/-- Settles O5: a Fetch latches the word at an address, and raises with MAR alone written beyond the last. -/
theorem fetchLatchesTheWordAtPc : Obligations.FetchLatchesTheWordAtPc := by
  refine fun s rest => ⟨fun h => ?_, fetch_of_ge⟩
  have hp : s.pc.toNat < Config.memWords := Nat.lt_succ_of_le h
  exact ⟨fetch_of_lt hp, pc_add_one_toNat hp⟩

/-- Settles O6: the raise of Fetch is the whole cycle. -/
theorem fetchFaultState : Obligations.FetchFaultState := fun _ => step_of_fetch_raises

end Sys2Proof.Machine
end

section
/-! Proofs about the data transfer instructions (41_data_transfer.md): the two fields of an instruction word as a sum,
and O9 and O11. -/

namespace Sys2Proof.Machine

/-- The two fields of a word do not overlap, so the word is their sum (30_encoding.md R81). -/
theorem assembleWord_eq_add (op : Opcode) (x : Operand) :
    assembleWord op x = (op.setWidth 16 <<< 12) + x.setWidth 16 := by
  have hdisjoint : (op.setWidth 16 <<< 12) &&& x.setWidth 16 = (0 : Word) := by
    apply BitVec.eq_of_getLsbD_eq
    intro i hi
    by_cases h : i < 12
    · simp [h]
    · simp [BitVec.getLsbD_of_ge x i (Nat.not_lt.mp h)]
  exact (BitVec.add_eq_or_of_and_eq_zero _ _ hdisjoint).symm

/-- Settles O9: an operand is always an address, so LOAD's read never raises. -/
theorem loadResult : Obligations.LoadResult :=
  fun x s => ⟨assembleWord_eq_add 0x1 x, execLoad_eq x s⟩

/-- Settles O11: CLEAR makes no use of the operand beyond Decode's write of MAR. -/
theorem clearResult : Obligations.ClearResult :=
  fun x s => ⟨assembleWord_eq_add 0xA x, execClear_eq x s⟩

end Sys2Proof.Machine
end

section
/-! Proofs about input, output and HALT (43_io_and_halt.md): O19. -/

namespace Sys2Proof.Machine

/-- Settles O19: OUTPUT reads AC after Decode's write of MAR, which leaves it, and makes no use of the operand beyond
that write. -/
theorem outputResult : Obligations.OutputResult :=
  fun x s => ⟨assembleWord_eq_add 0x6 x, execOutput_eq x s⟩

end Sys2Proof.Machine
end

section
/-! Proofs about control transfer (44_control_transfer.md): a cycle that completes, how the run goes on after it in
either mode, and O25 and O26. -/

namespace Sys2Proof.Machine

/-! ### A completed cycle, and the run after it in either mode -/

/-- The acknowledgment undoes the wait that the step gate began, and nothing else (10_state.md R43). -/
theorem hostAcknowledge_reachGate {s : State} (hg : s.atGate = false) : hostAcknowledge s.reachGate = .done s () := by
  obtain ⟨⟩ := s
  cases hg
  rfl

/-- The two modes share one loop: a completed cycle goes straight on, or after the acknowledgment goes on from the same
state (10_state.md R43, 60_exceptions.md R220). -/
theorem finishCycle_goes_on {s : State} (hr : s.runState = .running) (hg : s.atGate = false) (hh : s.halted = false) :
    (finishCycle s).runState = .running ∧ (s.mode = .continuous → s = finishCycle s) ∧
      (s.mode = .singleStep → hostAcknowledge (finishCycle s) = .done s ()) := by
  refine ⟨by simp [finishCycle_runState, hr, hh], fun hm => ?_, fun hm => ?_⟩
  · simp [finishCycle, hr, hh, hm]
  · have hgate : finishCycle s = s.reachGate := by simp [finishCycle, hr, hh, hm]
    rw [hgate, hostAcknowledge_reachGate hg]

/-- A cycle that can start completes with its instruction's effect: the one instruction refused is a SKIPCOND with a
reserved condition (30_encoding.md R87). -/
theorem step_of_ready_of_legal {s : State} (h : s.Ready)
    (hc : ∀ c, s.nextInstr = .skipcond c → c ∈ conditionCodes) :
    step s = .next (finishCycle (effect s.nextInstr s.fetched)) := by
  rw [step_of_ready h]
  rcases exec_cases s.nextInstr s.fetched with ⟨-, he⟩ | ⟨c, hi, hreserved, -⟩
  · rw [he, endCycle_next]
  · exact absurd (hc c hi) hreserved

/-! ### The statements -/

/-- Settles O25: the target is the operand, which is always an address. -/
theorem jumpResult : Obligations.JumpResult := by
  refine fun x s => ⟨assembleWord_eq_add 0x9 x, execJump_eq x s, ?_⟩
  have haddr : (zext16 x).toNat < 4096 := (zext16_toNat x).trans_lt (operand_lt x)
  exact Nat.le_of_lt_succ haddr

/-- Settles O26: the state from which the next cycle starts, gate or not, is the one JUMPI's effect left, and there the
Fetch raises. -/
theorem jumpiResult : Obligations.JumpiResult := by
  refine ⟨fun x s => ⟨assembleWord_eq_add 0xC x, execJumpi_eq x s⟩, fun x s hready hh hi htarget => ?_⟩
  have hstep := step_of_ready_of_legal hready (by simp [hi])
  rw [hi] at hstep
  obtain ⟨hr, hg, -⟩ := hready
  obtain ⟨hrun, hcontinuous, hsingle⟩ := finishCycle_goes_on (s := effect (.jumpi x) s.fetched) hr hg hh
  exact ⟨_, effect (.jumpi x) s.fetched, hstep, hrun, finishCycle_pc _, finishCycle_ir _, hcontinuous, hsingle,
    rfl, rfl, step_of_fetch_raises hr hg htarget⟩

end Sys2Proof.Machine
end

section
/-! Proofs about fatal errors (60_exceptions.md): what an instruction that raises leaves as it was, and O33. -/

namespace Sys2Proof.Machine

/-! ### A raise comes before any write to OUT, memory, HEAD or AC -/

/-- The end of a cycle keeps a raise and makes none (40_instruction_cycle.md R130). -/
theorem finishCycle_runState_eq_faulted_iff {s : State} :
    (finishCycle s).runState = .faulted ↔ s.runState = .faulted := by
  rw [finishCycle_runState]
  split_ifs <;> simp [*]

/-- Only ADDI's second load and an undefined opcode raise, both before any write to AC, memory or OUT (R207, R208). -/
theorem effect_frame_of_faulted {i : Instr} {s : State} (hs : s.runState ≠ .faulted)
    (h : (effect i s).runState = .faulted) :
    (effect i s).out = s.out ∧ (effect i s).mem = s.mem ∧ (effect i s).head = s.head ∧ (effect i s).ac = s.ac := by
  cases i with
  | addi x =>
    by_cases hp : (s.mem.read x.toNat).toNat < Config.memWords
    · rw [effect_addi_of_lt hp] at h
      exact absurd h hs
    · rw [effect_addi_of_ge (Nat.not_lt.mp hp)]
      exact ⟨rfl, rfl, rfl, rfl⟩
  | undefinedD | undefinedE | undefinedF => exact ⟨rfl, rfl, rfl, rfl⟩
  | input x => exact absurd ((takeAnswer_runState _).symm.trans h) hs
  | skipcond c =>
    simp only [effect] at h
    split at h <;> exact absurd h hs
  | jns | load | store | add | subt | output | halt | jump | clear | jumpi => exact absurd h hs

/-! ### The statement -/

/-- Settles O33: a Fetch that raises writes MAR and the fault alone; else the raise is the instruction's own, after a
Fetch that kept all four. -/
theorem faultKeepsOutputAndMemory : Obligations.FaultKeepsOutputAndMemory := by
  intro s t h hfaulted
  obtain ⟨hr, -, ⟨-, rfl⟩ | ⟨-, rfl, -⟩⟩ := step_eq_next h
  · exact ⟨rfl, rfl, rfl, rfl⟩
  · have hfetched : s.fetched.runState ≠ .faulted := by simp [hr]
    simpa using effect_frame_of_faulted hfetched (finishCycle_runState_eq_faulted_iff.mp hfaulted)

end Sys2Proof.Machine
end

section
/-! Proofs about the instructions' frames (10_state.md section 2, 20_memory.md section 4): which parts of the state an
instruction's effect leaves as they are, and O29, O30 and O31. -/

namespace Sys2Proof.Machine

/-! ### The two meanings with a branch -/

/-- SKIPCOND writes MAR and PC alone, and PC only to skip (44_control_transfer.md R181). -/
theorem effect_skipcond (c : Operand) (s : State) :
    effect (.skipcond c) s =
      (latchOperand s c).setPc (if skipTest (zext16 c) s.ac = some true then s.pc + 1 else s.pc) := by
  simp only [effect]
  split <;> rfl

/-- ADDI's pointer is an address, and the state is the sum's, or it is none, and the state is the raise's
(42_arithmetic.md R163). -/
theorem effect_addi_cases (x : Operand) (s : State) :
    ((s.mem.read x.toNat).toNat < Config.memWords ∧
      effect (.addi x) s =
        ((s.withPointer (s.mem.read x.toNat)).setMbr (s.mem.read (s.mem.read x.toNat).toNat)).setAc
          (aluAdd s.ac (s.mem.read (s.mem.read x.toNat).toNat))) ∨
    (Config.memWords ≤ (s.mem.read x.toNat).toNat ∧
      effect (.addi x) s =
        (s.withPointer (s.mem.read x.toNat)).recordFault (.addressOutOfBounds (s.mem.read x.toNat).toNat)) :=
  (Nat.lt_or_ge _ _).imp (fun h => ⟨h, effect_addi_of_lt h⟩) fun h => ⟨h, effect_addi_of_ge h⟩

/-! ### What every instruction leaves as it is -/

/-- No instruction writes IR, the mode or the wait at the gate (10_state.md section 2). -/
theorem effect_ir_mode_atGate (i : Instr) (s : State) :
    (effect i s).ir = s.ir ∧ (effect i s).mode = s.mode ∧ (effect i s).atGate = s.atGate := by
  cases i with
  | input x => simp [effect]
  | skipcond c => simp [effect_skipcond]
  | addi x => obtain ⟨-, h⟩ | ⟨-, h⟩ := effect_addi_cases x s <;> simp [h]
  | jns | load | store | add | subt | output | halt | jump | clear | jumpi | undefinedD | undefinedE | undefinedF =>
    exact ⟨rfl, rfl, rfl⟩

/-! ### What all but the writers leave as it is -/

/-- MBR has three writers after Fetch (10_state.md section 2). -/
theorem effect_mbr_of_not_writer {i : Instr} (s : State) (h : ∀ x, i ≠ .add x ∧ i ≠ .subt x ∧ i ≠ .addi x) :
    (effect i s).mbr = s.mbr := by
  cases i with
  | add x | subt x | addi x => simpa using h x
  | input x => exact takeAnswer_mbr _
  | skipcond c => simp [effect_skipcond]
  | jns | load | store | output | halt | jump | clear | jumpi | undefinedD | undefinedE | undefinedF => rfl

/-- PC has four writers after Fetch (10_state.md section 2). -/
theorem effect_pc_of_not_writer {i : Instr} (s : State)
    (h : ∀ x, i ≠ .jns x ∧ i ≠ .skipcond x ∧ i ≠ .jump x ∧ i ≠ .jumpi x) : (effect i s).pc = s.pc := by
  cases i with
  | jns x | skipcond x | jump x | jumpi x => simpa using h x
  | input x => exact takeAnswer_pc _
  | addi x => obtain ⟨-, h⟩ | ⟨-, h⟩ := effect_addi_cases x s <;> simp [h]
  | load | store | add | subt | output | halt | clear | undefinedD | undefinedE | undefinedF => rfl

/-- MAR is the operand after every instruction but ADDI (40_instruction_cycle.md R132). -/
theorem effect_mar_of_not_addi {i : Instr} (s : State) (h : ∀ x, i ≠ .addi x) :
    (effect i s).mar = zext16 i.operand := by
  cases i with
  | addi x => exact absurd rfl (h x)
  | input x => exact takeAnswer_mar _
  | skipcond c => simp [effect_skipcond, Instr.operand]
  | jns | load | store | add | subt | output | halt | jump | clear | jumpi | undefinedD | undefinedE | undefinedF => rfl

/-- The answers and the draw counter are INPUT's alone (10_state.md R41). -/
theorem effect_inputs_draws_of_not_input {i : Instr} (s : State) (h : ∀ x, i ≠ .input x) :
    (effect i s).inputs = s.inputs ∧ (effect i s).draws = s.draws := by
  cases i with
  | input x => exact absurd rfl (h x)
  | skipcond c => simp [effect_skipcond]
  | addi x => obtain ⟨-, h⟩ | ⟨-, h⟩ := effect_addi_cases x s <;> simp [h]
  | jns | load | store | add | subt | output | halt | jump | clear | jumpi | undefinedD | undefinedE | undefinedF =>
    exact ⟨rfl, rfl⟩

/-- OUT has one writer, OUTPUT (10_state.md R37). -/
theorem effect_out_of_not_output {i : Instr} (s : State) (h : ∀ x, i ≠ .output x) : (effect i s).out = s.out := by
  cases i with
  | output x => exact absurd rfl (h x)
  | input x => exact takeAnswer_out _
  | skipcond c => simp [effect_skipcond]
  | addi x => obtain ⟨-, h⟩ | ⟨-, h⟩ := effect_addi_cases x s <;> simp [h]
  | jns | load | store | add | subt | halt | jump | clear | jumpi | undefinedD | undefinedE | undefinedF => rfl

/-- FAULT and RUNSTATE are written by a raise alone: ADDI's or an undefined opcode's (10_state.md R32, R33). -/
theorem effect_status_of_not_raiser {i : Instr} (s : State)
    (h : ∀ x, i ≠ .addi x ∧ i ≠ .undefinedD x ∧ i ≠ .undefinedE x ∧ i ≠ .undefinedF x) :
    (effect i s).fault = s.fault ∧ (effect i s).runState = s.runState := by
  cases i with
  | addi x | undefinedD x | undefinedE x | undefinedF x => simpa using h x
  | input x => exact ⟨takeAnswer_fault _, takeAnswer_runState _⟩
  | skipcond c => simp [effect_skipcond]
  | jns | load | store | add | subt | output | halt | jump | clear | jumpi => exact ⟨rfl, rfl⟩

/-! ### What an instruction does to memory -/

/-- STORE and JNS write one word, at their operand, as `writeWord` does; every other instruction leaves memory and HEAD
(20_memory.md section 4). -/
theorem effect_memory_cases (i : Instr) (s : State) :
    (∃ x v, (i = .store x ∨ i = .jns x) ∧ (effect i s).mem = s.mem.write x.toNat v ∧
      (effect i s).head = (s.writeWord x.toNat v).head) ∨
    ((∀ x, i ≠ .store x ∧ i ≠ .jns x) ∧ (effect i s).mem = s.mem ∧ (effect i s).head = s.head) := by
  cases i with
  | store x => exact .inl ⟨x, s.ac, .inl rfl, rfl, rfl⟩
  | jns x => exact .inl ⟨x, s.pc, .inr rfl, rfl, rfl⟩
  | input x => exact .inr ⟨by simp, takeAnswer_mem _, takeAnswer_head _⟩
  | skipcond c => exact .inr (by simp [effect_skipcond])
  | addi x => obtain ⟨-, h⟩ | ⟨-, h⟩ := effect_addi_cases x s <;> exact .inr (by simp [h])
  | load | add | subt | output | halt | jump | clear | jumpi | undefinedD | undefinedE | undefinedF =>
    exact .inr ⟨by simp, rfl, rfl⟩

theorem effect_memory_of_not_storing {i : Instr} (s : State) (h : ∀ x, i ≠ .store x ∧ i ≠ .jns x) :
    (effect i s).mem = s.mem ∧ (effect i s).head = s.head := by
  obtain ⟨x, -, hi, -⟩ | ⟨-, hkeep⟩ := effect_memory_cases i s
  · obtain ⟨hstore, hjns⟩ := h x
    exact absurd hi (not_or.mpr ⟨hstore, hjns⟩)
  · exact hkeep

/-! ### The statements -/

/-- Settles O29: such an instruction leaves the memory itself, as data. -/
theorem nonStoringFormsKeepMemory : Obligations.NonStoringFormsKeepMemory := by
  intro i s t hi h
  obtain ⟨rfl, -⟩ := exec_eq_next h
  obtain ⟨hmem, hhead⟩ := effect_memory_of_not_storing s hi
  exact ⟨fun a => by rw [hmem], hhead⟩

/-- Settles O30: both write one word, at the address in MAR. -/
theorem storingFormsKeepOtherWords : Obligations.StoringFormsKeepOtherWords := by
  intro i x s t hi h a ha
  obtain ⟨rfl, -⟩ := exec_eq_next h
  rw [latchOperand_mar, zext16_toNat] at ha
  rcases hi with rfl | rfl <;> exact Memory.read_write_ne s.mem _ ha

/-- Settles O31: each clause is the frame lemma of that part of the state, read backwards. -/
theorem eachInstructionWritesOnlyItsState : Obligations.EachInstructionWritesOnlyItsState := by
  intro i s t h
  obtain ⟨rfl, -⟩ := exec_eq_next h
  obtain ⟨hir, hmode, hgate⟩ := effect_ir_mode_atGate i s
  refine ⟨hir, hmode, hgate, fun hne => ?_, fun hne => ?_, fun hne => ?_, fun hne => ?_, fun hne => ?_, fun hne => ?_,
    fun hne => ?_, fun hne => ?_⟩
  all_goals
    by_contra hno
    simp only [not_exists, not_or] at hno
  · exact hne (effect_ac_of_not_writer s hno)
  · exact hne (effect_mbr_of_not_writer s hno)
  · exact hne (effect_pc_of_not_writer s hno)
  · simp [effect_inReg_of_not_input s hno, effect_inputs_draws_of_not_input s hno] at hne
  · simp [effect_outReg_of_not_output s hno, effect_out_of_not_output s hno] at hne
  · exact hne (effect_halted_of_not_halt s hno)
  · simp [effect_memory_of_not_storing s hno] at hne
  · simp [effect_status_of_not_raiser s hno] at hne

end Sys2Proof.Machine
end

section
/-! Proofs about fatal errors and the invariant (60_exceptions.md section 1, 10_state.md sections 3 to 5): what an
instruction can do to FAULT, and O28, O32, O36 and O37. -/

namespace Sys2Proof.Machine

/-! ### The undefined opcodes -/

theorem State.Ready.pc_lt {s : State} (h : s.Ready) : s.pc.toNat < 4096 := h.2.2

theorem opcodeField_toNat (w : Word) : (opcodeField w).toNat = w.toNat / 4096 := by
  have hlt : w.toNat < 65536 := w.isLt
  simp only [opcodeField, BitVec.extractLsb'_toNat, Nat.shiftRight_eq_div_pow]
  omega

theorem nextInstr_opcode (s : State) : s.nextInstr.opcode = opcodeField (s.mem.read s.pc.toNat) := decodeWord_opcode _

/-- The words with an undefined opcode are those from 0xD000 on (30_encoding.md R86). -/
theorem undefined_nextInstr_iff (s : State) :
    0xD ≤ s.nextInstr.opcode.toNat ↔ 0xD000 ≤ (s.mem.read s.pc.toNat).toNat := by
  rw [nextInstr_opcode, opcodeField_toNat]
  omega

/-- An undefined opcode is raised as it stands in the word (60_exceptions.md R201). -/
theorem effect_of_undefined {i : Instr} (s : State) (h : 0xD ≤ i.opcode.toNat) :
    effect i s = (latchOperand s i.operand).recordFault (.undecodableOpcode i.opcode) := by
  cases i with
  | undefinedD | undefinedE | undefinedF => rfl
  | jns | load | store | add | subt | input | output | halt | skipcond | jump | clear | addi | jumpi =>
    simp [Instr.opcode] at h

/-- An undefined opcode is no SKIPCOND, so nothing refuses it. -/
theorem legal_of_undefined {i : Instr} (h : 0xD ≤ i.opcode.toNat) : ∀ c, i = .skipcond c → c ∈ conditionCodes := by
  rintro c rfl
  simp [Instr.opcode] at h

/-! ### What an instruction raises -/

/-- The fatal error an instruction raises on a memory, if it raises one (60_exceptions.md section 1). -/
def raisedBy : Instr → Memory → Option FatalError
  | .addi x, m =>
    if (m.read x.toNat).toNat < Config.memWords then none else some (.addressOutOfBounds (m.read x.toNat).toNat)
  | .undefinedD _, _ => some (.undecodableOpcode 0xD)
  | .undefinedE _, _ => some (.undecodableOpcode 0xE)
  | .undefinedF _, _ => some (.undecodableOpcode 0xF)
  | .jns _, _ | .load _, _ | .store _, _ | .add _, _ | .subt _, _ | .input _, _ | .output _, _ | .halt _, _ => none
  | .skipcond _, _ | .jump _, _ | .clear _, _ | .jumpi _, _ => none

/-- FAULT after an instruction is what it raised, or else as before (00_scope.md R12). -/
theorem effect_fault (i : Instr) (s : State) : (effect i s).fault = (raisedBy i s.mem).or s.fault := by
  cases i with
  | undefinedD | undefinedE | undefinedF => rfl
  | addi x =>
    obtain ⟨hp, h⟩ | ⟨hp, h⟩ := effect_addi_cases x s
    · simp [h, raisedBy, hp]
    · simp [h, raisedBy, Nat.not_lt.mpr hp]
  | jns | load | store | add | subt | input | output | halt | skipcond | jump | clear | jumpi =>
    exact (effect_status_of_not_raiser s (by simp)).1

/-- The two sites of a raise after Fetch: an undefined opcode, and ADDI's pointer (60_exceptions.md section 1). -/
theorem raisedBy_eq_some_iff {i : Instr} {m : Memory} {e : FatalError} :
    raisedBy i m = some e ↔
      (0xD ≤ i.opcode.toNat ∧ e = .undecodableOpcode i.opcode) ∨
      ∃ x, i = .addi x ∧ Config.memWords ≤ (m.read x.toNat).toNat ∧ e = .addressOutOfBounds (m.read x.toNat).toNat := by
  cases i with
  | undefinedD | undefinedE | undefinedF => simp [raisedBy, Instr.opcode, eq_comm]
  | addi x => simp [raisedBy, Instr.opcode, eq_comm]
  | jns | load | store | add | subt | input | output | halt | skipcond | jump | clear | jumpi =>
    simp [raisedBy, Instr.opcode]

/-! ### The invariant, clause by clause -/

theorem step_mem_wf {s t : State} (hs : s.mem.wf) (h : step s = .next t) : t.mem.wf := by
  obtain ⟨-, -, ⟨-, rfl⟩ | ⟨-, rfl, -⟩⟩ := step_eq_next h
  · exact hs
  · obtain ⟨x, v, -, hmem, -⟩ | ⟨-, hmem, -⟩ := effect_memory_cases s.nextInstr s.fetched
    · rw [finishCycle_mem, hmem]
      exact Memory.write_wf hs (operand_lt x)
    · rw [finishCycle_mem, hmem]
      exact hs

theorem step_statusAgrees {s t : State} (hs : s.StatusAgrees) (h : step s = .next t) : t.StatusAgrees := by
  obtain ⟨-, hr, hh, hf⟩ | ⟨-, hr, hh, e, hf⟩ | ⟨-, hr, hh, hf⟩ := step_status_cases hs h <;>
    simp [State.StatusAgrees, hr, hh, hf]

/-- The core begins to wait only where single-step mode goes on (40_instruction_cycle.md R130). -/
theorem finishCycle_gateAgrees {s : State} (hg : s.atGate = false)
    (hr : s.runState = .running ∨ s.runState = .faulted) : (finishCycle s).GateAgrees := by
  intro hgate
  obtain ⟨-, h⟩ | ⟨-, -, h⟩ | ⟨hf, -, hm, h⟩ | ⟨-, -, -, h⟩ := finishCycle_cases s <;> rw [h] at hgate ⊢
  · simp [hg] at hgate
  · simp [hg] at hgate
  · exact ⟨hm, hr.resolve_right hf⟩
  · simp [hg] at hgate

theorem step_gateAgrees {s t : State} (h : step s = .next t) : t.GateAgrees := by
  obtain ⟨hr, hg, ⟨-, rfl⟩ | ⟨-, rfl, -⟩⟩ := step_eq_next h
  · intro hgate
    simp [hg] at hgate
  · obtain ⟨-, -, hgate⟩ := effect_ir_mode_atGate s.nextInstr s.fetched
    refine finishCycle_gateAgrees (hgate.trans hg) ?_
    exact (effect_status_cases s.nextInstr s.fetched).imp (fun h => h.1.trans hr) (·.1)

/-- No raise of the core is a ValueOverflow (60_exceptions.md R203). -/
theorem step_noOverflowFault {s t : State} (hs : s.NoOverflowFault) (h : step s = .next t) : t.NoOverflowFault := by
  intro v
  obtain ⟨-, -, ⟨-, rfl⟩ | ⟨-, rfl, -⟩⟩ := step_eq_next h
  · simp
  · rw [finishCycle_fault]
    cases hraise : raisedBy s.nextInstr s.mem with
    | none => simpa [effect_fault, hraise] using hs v
    | some e =>
      obtain ⟨-, rfl⟩ | ⟨x, -, -, rfl⟩ := raisedBy_eq_some_iff.mp hraise <;> simp [effect_fault, hraise]

/-- MAR holds an address after every instruction that does not raise: the operand, or ADDI's pointer
(40_instruction_cycle.md R137). -/
theorem effect_mar_lt {i : Instr} {s : State} (h : (effect i s).runState ≠ .faulted) :
    (effect i s).mar.toNat < Config.memWords := by
  by_cases hi : ∃ x, i = .addi x
  · obtain ⟨x, rfl⟩ := hi
    obtain ⟨hp, he⟩ | ⟨-, he⟩ := effect_addi_cases x s
    · rw [he]
      exact hp
    · rw [he] at h
      exact absurd rfl h
  · rw [effect_mar_of_not_addi s (not_exists.mp hi), zext16_toNat]
    exact operand_lt _

theorem step_marValid {s t : State} (h : step s = .next t) : t.MarValid := by
  obtain ⟨-, -, ⟨-, rfl⟩ | ⟨-, rfl, -⟩⟩ := step_eq_next h <;> intro hr
  · cases hr
  · rw [finishCycle_mar]
    refine effect_mar_lt fun hf => ?_
    rw [finishCycle_runState_eq_faulted_iff.mpr hf] at hr
    cases hr

/-! ### The statements -/

/-- Settles O36: each clause of the invariant is kept by every step, and all but the status and the memory need no more
of the state before than that it made the step. -/
theorem stepKeepsTheInvariant : Obligations.StepKeepsTheInvariant := fun _ _ hs h =>
  { memory := step_mem_wf hs.memory h
    status := step_statusAgrees hs.status h
    gate := step_gateAgrees h
    overflow := step_noOverflowFault hs.overflow h
    mar := step_marValid h }

/-- A run start meets the invariant on any memory in canonical form (70_reset_and_hazards.md R231). -/
theorem runStart_inv {s : State} (h : s.mem.wf) (m : RunMode) : (runStart s m).Inv where
  memory := h
  status := by simp [State.StatusAgrees]
  gate := by simp [State.GateAgrees]
  overflow := by simp [State.NoOverflowFault]
  mar := by simp [State.MarValid]

/-- Settles O37: State.reset is a run start over the memory of power-on. -/
theorem resetMeetsTheInvariant : Obligations.ResetMeetsTheInvariant := by
  refine ⟨runStart_inv reset_memory_wf.2 .continuous, reset_memory_wf.2, ?_, ?_, ?_, ?_⟩
  · simp [State.StatusAgrees, State.powerOn]
  · simp [State.GateAgrees, State.powerOn]
  · simp [State.NoOverflowFault, State.powerOn]
  · simp [State.MarValid, State.powerOn]

/-- Settles O32: a Fetch that raises, or else what the fetched instruction raises. -/
theorem faultsHaveThreeSites : Obligations.FaultsHaveThreeSites := by
  intro s t e hnone h
  obtain ⟨-, -, ⟨hp, rfl⟩ | ⟨hp, rfl, -⟩⟩ := step_eq_next h
  · simp [Nat.not_lt.mpr hp, hp, eq_comm]
  · have hraise : (finishCycle (effect s.nextInstr s.fetched)).fault = raisedBy s.nextInstr s.mem := by
      simp [effect_fault, hnone]
    rw [hraise, raisedBy_eq_some_iff, undefined_nextInstr_iff, nextInstr_opcode]
    simp [hp, Nat.not_le.mpr hp]

/-- Settles O28: the three meanings are the raise itself, their words are those from 0xD000 on, and no instruction of a
lower word raises an opcode. -/
theorem undefinedOpcodesRaiseUndecodable : Obligations.UndefinedOpcodesRaiseUndecodable := by
  refine ⟨fun x s => ⟨rfl, rfl, rfl⟩, fun s hready hw => ?_, fun s t op hready hnone hw h hfault => ?_⟩
  · have hop := (undefined_nextInstr_iff s).mpr hw
    have hstep := step_of_ready_of_legal hready (legal_of_undefined hop)
    rw [effect_of_undefined _ hop, nextInstr_opcode] at hstep
    exact ⟨_, hstep, by simp [finishCycle_runState]⟩
  · obtain ⟨hp, -⟩ | ⟨-, hge, -⟩ | ⟨-, x, -, -, he⟩ := (faultsHaveThreeSites s t _ hnone h).mp hfault
    · exact Nat.not_le.mpr hready.pc_lt hp
    · exact Nat.not_le.mpr hw hge
    · cases he

end Sys2Proof.Machine
end

section
/-! Proofs about a whole cycle (40_instruction_cycle.md): the registers after it, when there is one, and O4, O7, O8,
O35, O39 and O40. -/

namespace Sys2Proof.Machine

/-! ### A cycle that can start -/

/-- Where a cycle can start, its next state is the instruction's effect after Fetch, at the end of the cycle. -/
theorem step_of_ready_eq_next {s t : State} (hs : s.Ready) (h : step s = .next t) :
    t = finishCycle (effect s.nextInstr s.fetched) := by
  obtain ⟨-, -, ⟨hp, -⟩ | ⟨-, ht, -⟩⟩ := step_eq_next h
  · exact absurd hp (Nat.not_le.mpr hs.pc_lt)
  · exact ht

/-- The one refusal: SKIPCOND with a reserved condition (30_encoding.md R87). -/
theorem exec_skipcond_of_reserved {c : Operand} (s : State) (hc : c ∉ conditionCodes) :
    exec (.skipcond c) s = .refused (.skipcondReservedCondition c) := by
  obtain ⟨hlegal, -⟩ | ⟨d, hd, -, he⟩ := exec_cases (.skipcond c) s
  · exact absurd (hlegal c rfl) hc
  · cases hd
    exact he

/-- Every instruction but that one has a next state. -/
theorem exec_of_legal {i : Instr} (s : State) (hc : ∀ c, i = .skipcond c → c ∈ conditionCodes) :
    exec i s = .next (effect i s) := by
  obtain ⟨-, he⟩ | ⟨c, hi, hreserved, -⟩ := exec_cases i s
  · exact he
  · exact absurd (hc c hi) hreserved

/-! ### PC, MAR and MBR -/

/-- When a SKIPCOND skips (44_control_transfer.md R181). -/
theorem skipTest_eq_some_true_iff (c : Operand) (ac : Word) :
    skipTest (zext16 c) ac = some true ↔
      (c = 0x000 ∧ ac.toInt < 0) ∨ (c = 0x400 ∧ ac = 0) ∨ (c = 0x800 ∧ 0 < ac.toInt) := by
  rw [skipTest_zext16, signed16_eq_toInt]
  split_ifs <;> simp_all

/-- JNS's target is not reduced: an operand plus 1 is at most 4096 (44_control_transfer.md R180). -/
theorem zext16_add_one_toNat (x : Operand) : (zext16 x + 1).toNat = x.toNat + 1 := by
  have hx := operand_lt x
  rw [BitVec.toNat_add_of_lt (by rw [zext16_toNat]; exact show x.toNat + 1 < 65536 by omega), zext16_toNat]
  rfl

/-- MBR after ADDI: the word pointed at, or the pointer that is no address (60_exceptions.md R207). -/
theorem effect_addi_mar_mbr (x : Operand) (s : State) :
    (effect (.addi x) s).mar = s.mem.read x.toNat ∧
    (effect (.addi x) s).mbr =
      if (s.mem.read x.toNat).toNat < 4096 then s.mem.read (s.mem.read x.toNat).toNat else s.mem.read x.toNat := by
  obtain ⟨hp, h⟩ | ⟨hp, h⟩ := effect_addi_cases x s
  · simp [h, hp]
  · simp [h, Nat.not_lt.mpr hp]

/-! ### The words above HEAD -/

/-- A write raises HEAD to its address at least, so the words above HEAD are none it wrote (20_memory.md R64). -/
theorem zeroAboveHead_of_write {s t : State} {a : Nat} {v : Word} (ha : a < Config.memWords)
    (hmem : t.mem = s.mem.write a v) (hhead : t.head = (s.writeWord a v).head) (hz : s.ZeroAboveHead) :
    t.ZeroAboveHead := by
  intro b hb
  rw [hhead, writeWord_head_toNat s v ha] at hb
  rw [hmem, Memory.read_write_ne _ _ (by omega)]
  exact hz b (by omega)

/-! ### The statements -/

/-- Settles O4: `finishCycle` is the run loop's end of the cycle. -/
theorem stepRunsTheDecodedInstruction : Obligations.StepRunsTheDecodedInstruction := by
  intro s hr hg hp w
  rw [step_of_ready ⟨hr, hg, hp⟩]
  rfl

/-- Settles O7: PC + 1 after Fetch, and then the four instructions that write PC. -/
theorem pcAfterEachInstruction : Obligations.PcAfterEachInstruction := by
  intro s t hs h
  obtain rfl := step_of_ready_eq_next hs h
  have hp := hs.pc_lt
  have hpc := pc_add_one_toNat hp
  rw [finishCycle_pc]
  cases s.nextInstr with
  | jump x => exact zext16_toNat x
  | jns x => exact zext16_add_one_toNat x
  | jumpi x => rfl
  | skipcond c =>
    rw [effect_skipcond]
    simp only [skipTest_eq_some_true_iff, setPc_pc, fetched_ac, fetched_pc]
    split
    · rw [BitVec.toNat_add_of_lt (by rw [hpc]; exact show s.pc.toNat + 1 + 1 < 65536 by omega), hpc]
      rfl
    · exact hpc
  | load | store | add | subt | addi | input | output | clear | halt | undefinedD | undefinedE | undefinedF =>
    exact (congrArg _ (effect_pc_of_not_writer _ (by simp))).trans hpc

/-- Settles O8: Decode's MAR and Fetch's MBR, and then the three instructions that write them. -/
theorem marMbrIrAfterEachInstruction : Obligations.MarMbrIrAfterEachInstruction := by
  intro s t hs h
  obtain rfl := step_of_ready_eq_next hs h
  obtain ⟨hir, -, -⟩ := effect_ir_mode_atGate s.nextInstr s.fetched
  rw [finishCycle_ir, finishCycle_mar, finishCycle_mbr]
  refine ⟨hir, ?_⟩
  cases s.nextInstr with
  | add x | subt x => exact ⟨zext16_toNat x, rfl⟩
  | addi x => exact effect_addi_mar_mbr x s.fetched
  | load | store | input | output | clear | halt | jns | skipcond | jump | jumpi | undefinedD | undefinedE
  | undefinedF =>
    rw [effect_mar_of_not_addi _ (by simp), effect_mbr_of_not_writer _ (by simp), zext16_toNat]
    exact ⟨rfl, rfl⟩

/-- Settles O35: a Fetch that raises has a next state, and so has every instruction but the reserved SKIPCOND. -/
theorem runningCoreAlwaysSteps : Obligations.RunningCoreAlwaysSteps := by
  intro s hr hg
  refine ⟨fun c hp hi hc => ?_, fun h => ?_⟩
  · rw [step_of_ready ⟨hr, hg, hp⟩, hi, exec_skipcond_of_reserved _ hc]
    rfl
  · rcases Nat.lt_or_ge s.pc.toNat 4096 with hp | hp
    · exact ⟨_, step_of_ready_of_legal ⟨hr, hg, hp⟩ (h.resolve_left (Nat.not_le.mpr hp))⟩
    · exact ⟨_, step_of_fetch_raises hr hg hp⟩

/-- Settles O40: a Fetch that raises leaves OUT, and so does every instruction but OUTPUT. -/
theorem outputSequenceOnlyGrows : Obligations.OutputSequenceOnlyGrows := by
  intro s t h
  obtain ⟨-, -, ⟨hp, rfl⟩ | ⟨hp, rfl, -⟩⟩ := step_eq_next h
  · exact ⟨fun _ hlt => absurd hp (Nat.not_le.mpr hlt), fun _ => rfl⟩
  · rw [finishCycle_out]
    refine ⟨fun x _ hi => by rw [hi]; rfl, fun hno => ?_⟩
    exact effect_out_of_not_output _ (hno.resolve_left (Nat.not_le.mpr hp))

/-- Settles O39: a cycle leaves memory and HEAD, or writes one word and raises HEAD to its address. -/
theorem headBoundsTheWrittenWords : Obligations.HeadBoundsTheWrittenWords := by
  intro s t h
  obtain ⟨-, -, ⟨-, rfl⟩ | ⟨-, rfl, -⟩⟩ := step_eq_next h
  · exact ⟨Nat.le_refl _, id⟩
  · obtain ⟨x, v, -, hmem, hhead⟩ | ⟨-, hmem, hhead⟩ := effect_memory_cases s.nextInstr s.fetched
    · refine ⟨?_, zeroAboveHead_of_write (operand_lt x) ((finishCycle_mem _).trans hmem)
        ((finishCycle_head _).trans hhead)⟩
      rw [finishCycle_head, hhead, writeWord_head_toNat _ _ (operand_lt x)]
      exact Nat.le_max_left _ _
    · simp [State.ZeroAboveHead, hmem, hhead]

end Sys2Proof.Machine
end

section
/-! Proofs about the two run modes (60_exceptions.md section 4, 10_state.md section 5): a cycle in continuous mode, the
step gate, and O41 and O42. -/

namespace Sys2Proof.Machine

/-! ### The same cycle in continuous mode -/

/-- A result as a run in continuous mode has it. -/
def continuousResult : Result → Result
  | .next s => .next s.asContinuous
  | .fault r => .fault r
  | .refused r => .refused r

theorem takeAnswer_asContinuous (s : State) : takeAnswer s.asContinuous = (takeAnswer s).asContinuous := by
  unfold takeAnswer
  rw [asContinuous_inputs]
  split <;> rfl

/-- No instruction reads the mode or the wait at the gate. -/
theorem effect_asContinuous (i : Instr) (s : State) : effect i s.asContinuous = (effect i s).asContinuous := by
  cases i with
  | input x =>
    have htake := takeAnswer_asContinuous (latchOperand s x)
    exact congrArg (fun t => (State.setInReg t _).setAc _) htake
  | skipcond c =>
    rw [effect_skipcond, effect_skipcond]
    rfl
  | addi x =>
    obtain ⟨hp, h⟩ | ⟨hp, h⟩ := effect_addi_cases x s
    · rw [h, effect_addi_of_lt (s := s.asContinuous) hp]
      rfl
    · rw [h, effect_addi_of_ge (s := s.asContinuous) hp]
      rfl
  | jns | load | store | add | subt | output | halt | jump | clear | jumpi | undefinedD | undefinedE | undefinedF => rfl

theorem exec_asContinuous (i : Instr) (s : State) : exec i s.asContinuous = continuousResult (exec i s) := by
  obtain ⟨hlegal, he⟩ | ⟨c, rfl, hc, he⟩ := exec_cases i s
  · rw [he, exec_of_legal _ hlegal, effect_asContinuous]
    rfl
  · rw [he, exec_skipcond_of_reserved _ hc]
    rfl

/-- Where single-step mode begins to wait, continuous mode goes on (40_instruction_cycle.md R130). -/
theorem finishCycle_asContinuous (s : State) : finishCycle s.asContinuous = (finishCycle s).asContinuous := by
  obtain ⟨hf, h⟩ | ⟨hf, hh, h⟩ | ⟨hf, hh, -, h⟩ | ⟨hf, hh, -, h⟩ := finishCycle_cases s <;> rw [h]
  · exact if_pos hf
  · exact (if_neg hf).trans (if_pos hh)
  · simp [finishCycle, hf, hh]
    rfl
  · simp [finishCycle, hf, hh]

theorem endCycle_continuousResult (r : Result) : endCycle (continuousResult r) = continuousResult (endCycle r) := by
  cases r with
  | next s => exact congrArg Host.Outcome.next (finishCycle_asContinuous s)
  | fault r | refused r => rfl

/-- The two modes share one loop (60_exceptions.md R220). -/
theorem step_asContinuous {s : State} (hg : s.atGate = false) : step s.asContinuous = continuousResult (step s) := by
  by_cases hr : s.runState = .running
  · rcases Nat.lt_or_ge s.pc.toNat 4096 with hp | hp
    · rw [step_of_ready (s := s) ⟨hr, hg, hp⟩, step_of_ready (s := s.asContinuous) ⟨hr, rfl, hp⟩,
        ← endCycle_continuousResult, ← exec_asContinuous]
      rfl
    · rw [step_of_fetch_raises hr hg hp, step_of_fetch_raises (s := s.asContinuous) hr rfl hp]
      rfl
  · rw [step_of_not_running hr, step_of_not_running (s := s.asContinuous) hr]
    rfl

/-! ### The step gate -/

/-- A single-step cycle that neither raised nor halted begins to wait (40_instruction_cycle.md R130). -/
theorem finishCycle_atGate_of_running {s : State} (hm : s.mode = .singleStep)
    (hr : (finishCycle s).runState = .running) : (finishCycle s).atGate = true := by
  obtain ⟨hf, h⟩ | ⟨-, -, h⟩ | ⟨-, -, -, h⟩ | ⟨-, -, hc, -⟩ := finishCycle_cases s
  · rw [h, hf] at hr
    cases hr
  · rw [h] at hr
    cases hr
  · rw [h]
    rfl
  · rw [hm] at hc
    cases hc

/-! ### The statements -/

/-- Settles O41: the continuous cycle is the single-step one with the mode and the gate taken out. -/
theorem singleStepChangesNothing : Obligations.SingleStepChangesNothing := by
  intro s hg
  have hstep : step { s with mode := .continuous } = continuousResult (step { s with mode := .singleStep }) := by
    rw [← step_asContinuous (s := { s with mode := .singleStep }) hg, State.asContinuous, ← hg]
  rw [hstep]
  cases step { s with mode := .singleStep } <;> rfl

/-- Settles O42: a single-step cycle that neither raises nor halts ends at the gate, where only the acknowledgment moves
the core. -/
theorem stepGateWaitsForTheHost : Obligations.StepGateWaitsForTheHost := by
  intro s t hm h hr
  have hgate : t.atGate = true := by
    obtain ⟨-, -, ⟨-, rfl⟩ | ⟨-, rfl, -⟩⟩ := step_eq_next h
    · cases hr
    · obtain ⟨-, hmode, -⟩ := effect_ir_mode_atGate s.nextInstr s.fetched
      exact finishCycle_atGate_of_running (hmode.trans hm) hr
  refine ⟨hgate, ?_, if_pos (.inl hgate), if_pos hgate⟩
  rw [step, runCycle, if_pos hr, if_pos hgate]

end Sys2Proof.Machine
end

section
/-! Proofs about the arithmetic instructions and the ALU (42_arithmetic.md): O12 to O16. -/

namespace Sys2Proof.Machine

/-! ### The ALU -/

theorem aluAdd_toNat (a b : Word) : (aluAdd a b).toNat = (a.toNat + b.toNat) % 65536 := BitVec.toNat_ofNat _ _

theorem aluSub_toNat (a b : Word) : ((aluSub a b).toNat : Int) = ((a.toNat : Int) - b.toNat) % 65536 := by
  rw [aluSub, BitVec.toNat_ofInt]
  exact Int.toNat_of_nonneg (Int.emod_nonneg _ (by decide))

/-- An integer folded into the range of a 16-bit two's complement, from at most one turn away. -/
def wrap16 (n : Int) : Int := if n < -32768 then n + 65536 else if n > 32767 then n - 65536 else n

/-- The two's-complement reading of a word that is congruent to an integer modulo 65536 is that integer, wrapped. -/
theorem signed16_eq_wrap16 {w : Word} {n : Int} (hw : (w.toNat : Int) % 65536 = n % 65536) (hlo : -65536 ≤ n)
    (hhi : n ≤ 65535) : signed16 w = wrap16 n := by
  have hlt : w.toNat < 65536 := w.isLt
  unfold signed16 wrap16
  split_ifs <;> omega

theorem signed16_bounds (w : Word) : -32768 ≤ signed16 w ∧ signed16 w ≤ 32767 := by
  have hlt : w.toNat < 65536 := w.isLt
  unfold signed16
  split_ifs <;> omega

theorem signed16_emod (w : Word) : signed16 w % 65536 = (w.toNat : Int) % 65536 := by
  unfold signed16
  split_ifs <;> omega

/-! ### The statements -/

/-- Settles O12: modulo 65536 a word and its signed reading are the same, so the two's-complement result is the true one
wrapped. -/
theorem aluWrapsModulo65536 : Obligations.AluWrapsModulo65536 := by
  intro a b
  have ha := signed16_emod a
  have hb := signed16_emod b
  have hadd := aluAdd_toNat a b
  have hsub := aluSub_toNat a b
  obtain ⟨haLo, haHi⟩ := signed16_bounds a
  obtain ⟨hbLo, hbHi⟩ := signed16_bounds b
  exact ⟨hadd, hsub, signed16_eq_wrap16 (by omega) (by omega) (by omega),
    signed16_eq_wrap16 (by omega) (by omega) (by omega)⟩

/-- Settles O13: the ALU's sum is the sum of words. -/
theorem addResult : Obligations.AddResult := by
  intro x s
  rw [← aluAdd_eq]
  exact execAdd_eq x s

/-- Settles O14: the ALU's difference is the difference of words. -/
theorem subtResult : Obligations.SubtResult := by
  intro x s
  rw [← aluSub_eq]
  exact execSubt_eq x s

/-- Settles O15: the pointer is an address, so neither load raises. -/
theorem addiResult : Obligations.AddiResult := by
  intro x s hp p
  rw [← aluAdd_eq]
  exact execAddi_of_lt hp

/-- Settles O16: the second load raises, with the pointer in MBR and MAR. -/
theorem addiBadPointerFaults : Obligations.AddiBadPointerFaults := fun _ _ hp => execAddi_of_ge hp

end Sys2Proof.Machine
end

section
/-! Proofs about STORE (41_data_transfer.md, 20_memory.md section 6): O10 and O51. -/

namespace Sys2Proof.Machine

/-- Settles O10: the operand is always an address, so the write is one to the raw memory. -/
theorem storeResult : Obligations.StoreResult := fun x s hw =>
  ⟨_, execStore_eq x s, Memory.read_write_self hw _ _, fun _ ha => Memory.read_write_ne s.mem _ ha,
    writeWord_head_toNat _ _ (operand_lt x), rfl⟩

/-- Settles O51: Fetch reads the memory itself, and the word there is the one written. -/
theorem storeIsSeenByTheNextFetch : Obligations.StoreIsSeenByTheNextFetch := by
  intro s t x hw hs hi hx h
  obtain rfl := step_of_ready_eq_next hs h
  rw [State.nextInstr, finishCycle_mem, finishCycle_pc, hi]
  have hpc : (effect (.store x) s.fetched).pc.toNat = x.toNat := (pc_add_one_toNat hs.pc_lt).trans hx.symm
  rw [hpc]
  exact congrArg decodeWord (Memory.read_write_self hw _ _)

end Sys2Proof.Machine
end

section
/-! Proofs about input and HALT (43_io_and_halt.md): O17, O18, O20 and O55. -/

namespace Sys2Proof.Machine

/-! ### The answers of INPUT -/

theorem inputValue_bounds (v : InputAnswer) : -4095 ≤ inputValue v ∧ inputValue v ≤ 4095 := by
  have hlt : v.magnitude.toNat < 4096 := v.magnitude.isLt
  unfold inputValue
  split_ifs <;> omega

/-- The answer with a sign and a magnitude of the range (43_io_and_halt.md R170). -/
theorem inputValue_mk_ofNat (negative : Bool) {n : Nat} (hn : n ≤ 4095) :
    inputValue ⟨negative, BitVec.ofNat 12 n⟩ = if negative then -(n : Int) else n := by
  rw [inputValue, BitVec.toNat_ofNat, Nat.mod_eq_of_lt (show n < 2 ^ 12 by omega)]

/-- INPUT delivers the first answer that is fixed, and uses it up (43_io_and_halt.md R170). -/
theorem exec_input_of_cons {s : State} {v : InputAnswer} {more : List InputAnswer} (x : Operand)
    (h : s.inputs = v :: more) :
    exec (.input x) s =
      .next { s with mar := zext16 x, inReg := inputWord v, ac := inputWord v, inputs := more } := by
  simp only [exec, execInput, nextAnswer, takeAnswer, latchOperand_inputs, h]
  rfl

/-- Where no answer is fixed, INPUT delivers the free one of this draw (log entry 3). -/
theorem exec_input_of_nil {s : State} (x : Operand) (h : s.inputs = []) :
    exec (.input x) s =
      .next { s with
        mar := zext16 x
        inReg := inputWord (Config.inputDraw s.draws)
        ac := inputWord (Config.inputDraw s.draws)
        draws := s.draws + 1 } := by
  simp only [exec, execInput, nextAnswer, takeAnswer, latchOperand_inputs, h]
  rfl

/-! ### When the host has no answer to give -/

theorem hostAnswer_of_blocked {s : State} (v : InputAnswer) (h : blockedInInput s = true) :
    hostAnswer s v = .done { s with inputs := [v] } () := if_pos h

theorem hostAnswer_of_not_blocked {s : State} (v : InputAnswer)
    (h : ¬ (s.Ready ∧ (∃ x, s.nextInstr = .input x) ∧ s.inputs = [])) : hostAnswer s v = .noSuchMove :=
  if_neg (mt (blockedInInput_iff s).mp h)

/-! ### The statements -/

/-- Settles O17: INPUT takes the next answer, fixed or free. -/
theorem inputResult : Obligations.InputResult := ⟨fun x _ _ _ => exec_input_of_cons x, fun x _ => exec_input_of_nil x⟩

/-- Settles O18: a sign and a 12-bit magnitude spell the integers of the range and no others. -/
theorem inputAnswersAreTheIntegersInRange : Obligations.InputAnswersAreTheIntegersInRange := by
  refine ⟨inputValue_bounds, fun n hlo hhi => ?_, fun v => ?_⟩
  · refine ⟨⟨decide (n < 0), BitVec.ofNat 12 n.natAbs⟩, ?_⟩
    rw [inputValue_mk_ofNat _ (by omega)]
    simp only [decide_eq_true_eq]
    split_ifs <;> omega
  · obtain ⟨hlo, hhi⟩ := inputValue_bounds v
    rw [inputWord, BitVec.toNat_ofInt, Int.toNat_of_nonneg (Int.emod_nonneg _ (by decide))]
    split_ifs <;> omega

/-- Settles O20: HALT sets the flag, and the end of its cycle reads it. -/
theorem haltResult : Obligations.HaltResult := by
  refine ⟨fun x s => ⟨assembleWord_eq_add 0x7 x, execHalt_eq x s⟩, fun x s hs hi => ?_⟩
  have hr : s.runState ≠ .faulted := by simp [hs.1]
  rw [step_of_ready hs, hi]
  exact congrArg Host.Outcome.next ((if_neg hr).trans (if_pos rfl))

/-- Settles O55: the answer fills the empty queue, so no second one is taken, and INPUT empties it again. -/
theorem hostAnswerReachesTheInput : Obligations.HostAnswerReachesTheInput := by
  refine ⟨fun s x v hs hi hnone => ?_, fun s v h => hostAnswer_of_not_blocked v ?_⟩
  · have hs' : ({ s with inputs := [v] } : State).Ready := hs
    have hi' : ({ s with inputs := [v] } : State).nextInstr = .input x := hi
    have hstep := step_of_ready hs'
    rw [hi', exec_input_of_cons (s := State.fetched { s with inputs := [v] }) x rfl, endCycle_next] at hstep
    have hblocked := (blockedInInput_iff s).mpr ⟨hs, ⟨x, hi⟩, hnone⟩
    refine ⟨_, _, hostAnswer_of_blocked v hblocked, rfl, fun w => ?_, hstep, ?_⟩
    · exact hostAnswer_of_not_blocked w fun ⟨_, _, hempty⟩ => List.cons_ne_nil _ _ hempty
    · simp [inputWord]
  · rintro ⟨hs, ⟨x, hi⟩, hnone⟩
    rcases h with h | h | h
    · exact h hs
    · exact h x hi
    · exact h hnone

end Sys2Proof.Machine
end

section
/-! Proofs about JNS, SKIPCOND and JUMPI (44_control_transfer.md): O21 to O24 and O27. -/

namespace Sys2Proof.Machine

/-! ### The legal conditions -/

/-- A legal SKIPCOND writes MAR, and PC where its test holds (44_control_transfer.md R181). -/
theorem exec_skipcond_of_legal {c : Operand} {p : Prop} [Decidable p] (s : State) (hc : c ∈ conditionCodes)
    (hp : skipTest (zext16 c) s.ac = some true ↔ p) :
    exec (.skipcond c) s = .next { s with mar := zext16 c, pc := if p then s.pc + 1 else s.pc } := by
  rw [exec_of_legal s fun d hd => Instr.skipcond.inj hd ▸ hc, effect_skipcond]
  simp only [hp]
  rfl

/-- A word is negative from 0x8000 on (the spec's decision D2, log entry 7). -/
theorem toInt_neg_iff (v : Word) : v.toInt < 0 ↔ 0x8000 ≤ v.toNat := by
  have hlt : v.toNat < 65536 := v.isLt
  rw [← signed16_eq_toInt, signed16]
  split_ifs <;> omega

theorem toInt_pos_iff (v : Word) : 0 < v.toInt ↔ 1 ≤ v.toNat ∧ v.toNat ≤ 0x7FFF := by
  have hlt : v.toNat < 65536 := v.isLt
  rw [← signed16_eq_toInt, signed16]
  split_ifs <;> omega

/-- The three conditions divide the words among them (44_control_transfer.md R181). -/
theorem exists_skipTest_iff (ac : Word) :
    ∃ c ∈ conditionCodes, ∀ d ∈ conditionCodes, skipTest (zext16 d) ac = some true ↔ d = c := by
  have hzero : ac = 0 ↔ ac.toInt = 0 := BitVec.toInt_inj.symm
  simp only [skipTest_eq_some_true_iff, hzero]
  rcases Int.lt_trichotomy ac.toInt 0 with h | h | h
  · exact ⟨0x000, by simp [conditionCodes, h, h.ne, h.le]⟩
  · exact ⟨0x400, by simp [conditionCodes, h]⟩
  · exact ⟨0x800, by simp [conditionCodes, h, h.ne', h.le]⟩

/-! ### The statements -/

/-- Settles O21: the operand is always an address, and one more than an address needs no reduction. -/
theorem jnsResult : Obligations.JnsResult := fun x s hw =>
  ⟨_, execJns_eq x s, Memory.read_write_self hw _ s.pc, fun _ ha => Memory.read_write_ne s.mem _ ha,
    writeWord_head_toNat _ s.pc (operand_lt x), zext16_add_one_toNat x, rfl⟩

/-- Settles O22: each code selects its own test of AC. -/
theorem skipcondResult : Obligations.SkipcondResult := fun s =>
  ⟨exec_skipcond_of_legal s (by decide) (by simp [skipTest_eq_some_true_iff, toInt_neg_iff]),
    exec_skipcond_of_legal s (by decide) (by simp [skipTest_eq_some_true_iff, BitVec.toNat_eq]),
    exec_skipcond_of_legal s (by decide) (by simp [skipTest_eq_some_true_iff, toInt_pos_iff])⟩

/-- Settles O23: a condition that is none of the three codes is reserved. -/
theorem reservedSkipcondIsRefused : Obligations.ReservedSkipcondIsRefused := fun c s h0 h4 h8 =>
  exec_skipcond_of_reserved s (by simp_all [conditionCodes])

/-- Settles O24: the code that skips is the one whose condition AC meets. -/
theorem exactlyOneConditionSkips : Obligations.ExactlyOneConditionSkips := by
  intro s
  obtain ⟨c, hc, hskip⟩ := exists_skipTest_iff s.ac
  exact ⟨c, hc, fun d hd => ⟨_, exec_skipcond_of_legal s hd (hskip d hd), rfl⟩⟩

/-- Settles O27: the word JNS stores is the one JUMPI reads. -/
theorem callThenReturnResumes : Obligations.CallThenReturnResumes := by
  intro x s t hw h
  obtain ⟨rfl, -⟩ := exec_eq_next h
  exact ⟨_, execJumpi_eq x _, Memory.read_write_self hw _ _, rfl⟩

end Sys2Proof.Machine
end

section
/-! Proofs about loadRange and the image text (20_memory.md section 5): O48 and O50. -/

namespace Sys2Proof.Machine

/-! ### loadRange of too many words -/

/-- `storeFrom` comes to the values after those that fit (20_memory.md R63). -/
theorem storeFrom_append {us vs : List Nat} {a : Nat} (s : State) (hu : ∀ v ∈ us, v ≤ Config.maxWord)
    (ha : a + us.length ≤ Config.memWords) :
    storeFrom (us ++ vs) a s = storeFrom vs (a + us.length) (writeWords us a s) := by
  induction us generalizing a s with
  | nil => rfl
  | cons u us ih =>
    obtain ⟨hu, hus⟩ := List.forall_mem_cons.mp hu
    rw [List.length_cons] at ha ⊢
    rw [List.cons_append, storeFrom, memWrite_of_le (by omega) hu]
    refine (ih _ hus (by omega)).trans ?_
    rw [Nat.succ_add_eq_add_succ]
    rfl

/-- loadRange fails at its 4097th word, after the first 4096 are written (the spec's decision D22, log entry 13). -/
theorem hostLoadRange_of_gt {s : State} {vs : List Nat} (hs : s.runState ≠ .running)
    (hv : ∀ v ∈ vs, v ≤ Config.maxWord) (hn : Config.memWords < vs.length) :
    hostLoadRange s vs =
      .failed (writeWords (vs.take Config.memWords) 0 { s with head := 0 }) (.addressOutOfBounds Config.memWords) := by
  have hlen : (vs.take Config.memWords).length = Config.memWords := List.length_take_of_le hn.le
  obtain ⟨v, rest, hrest⟩ : ∃ v rest, vs.drop Config.memWords = v :: rest :=
    List.exists_cons_of_ne_nil (by simpa using hn)
  rw [hostLoadRange, whenNotRunning_of_ne hs]
  conv_lhs => rw [← List.take_append_drop Config.memWords vs, hrest]
  rw [storeFrom_append _ (fun v hm => hv v (List.mem_of_mem_take hm)) (by omega), hlen, Nat.zero_add, storeFrom,
    memWrite_of_ge v (Nat.le_refl _)]

/-! ### The digits of a word -/

theorem hexDigit_mem (d : BitVec 4) :
    hexDigit d ∈ ['0', '1', '2', '3', '4', '5', '6', '7', '8', '9', 'A', 'B', 'C', 'D', 'E', 'F'] := by
  revert d
  decide

theorem digitValue_hexDigit (d : BitVec 4) : digitValue (hexDigit d) = some d.toNat := by
  revert d
  decide

theorem mem_wordText {w : Word} {c : Char} (h : c ∈ wordText w) : ∃ d, c = hexDigit d := by
  simp only [wordText, List.mem_cons, List.not_mem_nil, or_false] at h
  rcases h with h | h | h | h <;> exact ⟨_, h⟩

/-- Reading a digit shifts what stands before it one place (30_encoding.md R114). -/
theorem digitsValue_hexDigit (d : BitVec 4) (cs : List Char) (n : Nat) :
    digitsValue 16 (hexDigit d :: cs) n = digitsValue 16 cs (n * 16 + d.toNat) := by
  rw [digitsValue, digitValue_hexDigit]
  exact if_pos d.isLt

/-- The four digits of a word are the word in base 16 (20_memory.md R62). -/
theorem parseNumber_wordText (w : Word) : parseNumber 16 (wordText w) = some w.toNat := by
  have hlt : w.toNat < 65536 := w.isLt
  rw [parseNumber, if_neg (by simp [wordText])]
  simp only [wordText, digitsValue_hexDigit, BitVec.extractLsb'_toNat, Nat.shiftRight_eq_div_pow]
  rw [digitsValue]
  refine congrArg some ?_
  omega

theorem readWordText_wordText (w : Word) : readWordText (wordText w) = some w := by
  rw [readWordText, if_pos (show (wordText w).length = 4 from rfl), parseNumber_wordText]
  simp

/-! ### The lines of a text -/

theorem splitOnChar_of_not_mem {sep : Char} {line : List Char} (h : sep ∉ line) : splitOnChar sep line = [line] := by
  induction line with
  | nil => rfl
  | cons c cs ih =>
    obtain ⟨hc, hcs⟩ := List.ne_and_not_mem_of_not_mem_cons h
    rw [splitOnChar, ih hcs]
    exact if_neg hc.symm

/-- A text is cut at the end of its first line. -/
theorem splitOnChar_append {sep : Char} {line : List Char} (text : List Char) (h : sep ∉ line) :
    splitOnChar sep (line ++ sep :: text) = line :: splitOnChar sep text := by
  induction line with
  | nil =>
    obtain ⟨part, parts, htail, hcut⟩ := splitOnChar_cons sep sep text
    rw [List.nil_append, hcut, if_pos rfl, htail]
  | cons c cs ih =>
    obtain ⟨hc, hcs⟩ := List.ne_and_not_mem_of_not_mem_cons h
    rw [List.cons_append, splitOnChar, ih hcs]
    exact if_neg hc.symm

/-- Cutting undoes joining, for one or more lines that do not hold the separator. -/
theorem splitOnChar_intercalate {sep : Char} {lines : List (List Char)} (hne : lines ≠ [])
    (h : ∀ line ∈ lines, sep ∉ line) : splitOnChar sep (List.intercalate [sep] lines) = lines := by
  induction lines with
  | nil => exact absurd rfl hne
  | cons line rest ih =>
    obtain ⟨hline, hrest⟩ := List.forall_mem_cons.mp h
    cases rest with
    | nil => simpa using splitOnChar_of_not_mem hline
    | cons next more =>
      rw [List.intercalate_cons_cons, List.append_assoc, List.singleton_append, splitOnChar_append _ hline,
        ih (List.cons_ne_nil _ _) hrest]

theorem mapM_readWordText (ws : List Word) : (ws.map wordText).mapM readWordText = some ws := by
  induction ws with
  | nil => rfl
  | cons w ws ih => simp [readWordText_wordText, ih]

theorem imageLines_length (s : State) : (imageLines s).length = s.head.toNat + 1 := by
  rw [imageLines, List.length_map, serializeRange_length]

/-- No line holds a newline: its characters are digits (20_memory.md R62). -/
theorem newline_not_mem_imageLines {s : State} {line : List Char} (h : line ∈ imageLines s) : '\n' ∉ line := by
  obtain ⟨w, -, rfl⟩ := List.mem_map.mp h
  intro hc
  obtain ⟨d, hd⟩ := mem_wordText hc
  have hmem := hexDigit_mem d
  rw [← hd] at hmem
  exact absurd hmem (by decide)

theorem splitOnChar_imageText (s : State) : splitOnChar '\n' (imageText s) = imageLines s := by
  have hne : imageLines s ≠ [] := List.ne_nil_of_length_pos (by rw [imageLines_length]; omega)
  exact splitOnChar_intercalate hne fun _ => newline_not_mem_imageLines

/-! ### The statements -/

/-- Settles O48: up to 4096 values are all written, and of more the first 4096. -/
theorem loadRangeWritesFromZero : Obligations.LoadRangeWritesFromZero := by
  intro s values hw hs hv
  refine ⟨fun hn => ?_, fun hn => ?_⟩
  · have hfits : 0 + values.length ≤ Config.memWords := by rwa [Nat.zero_add]
    refine ⟨_, hostLoadRange_of_le hs hv hn, fun k v hk => ?_, fun a ha => ?_, ?_⟩
    · rw [← Nat.zero_add k]
      exact writeWords_read_getElem? hw hfits hk
    · exact writeWords_read_outside _ (.inr (by omega))
    · rw [writeWords_head_toNat hfits (Nat.zero_le _), Nat.zero_add]
      exact Nat.zero_max _
  · refine ⟨_, hostLoadRange_of_gt hs hv hn, fun k v hk hkv => ?_⟩
    rw [← Nat.zero_add k]
    refine writeWords_read_getElem? hw ?_ ((List.getElem?_take_of_lt hk).trans hkv)
    rw [List.length_take_of_le hn.le]

/-- Settles O50: each word is read back from its four digits, and each line from its newlines. -/
theorem imageTextRoundTrip : Obligations.ImageTextRoundTrip := by
  refine fun s => ⟨imageLines_length s, fun line hline => ?_, splitOnChar_imageText s, fun k hk => ?_, ?_⟩
  · obtain ⟨w, -, rfl⟩ := List.mem_map.mp hline
    refine ⟨rfl, fun c hc => ?_⟩
    obtain ⟨d, rfl⟩ := mem_wordText hc
    exact hexDigit_mem d
  · rw [imageLines, List.getElem?_map, serializeRange_getElem? hk]
    exact parseNumber_wordText _
  · rw [readImage, splitOnChar_imageText, imageLines, mapM_readWordText]

end Sys2Proof.Machine
end

section
/-! Proofs about what an assembly stores (30_encoding.md sections 7 and 8): one word a line, the words in memory, and
O54. -/

namespace Sys2Proof.Machine

/-- Pass 1 keeps one form a line (R98 to R100). -/
theorem pass1_length {lines : List SourceLine} {index : Nat} {book book' : AddressBook} {forms : List ParsedLine}
    (h : pass1 lines index book = .ok (book', forms)) : forms.length = lines.length := by
  induction lines generalizing index book forms with
  | nil =>
    cases h
    rfl
  | cons line rest ih =>
    rw [pass1] at h
    split at h
    · cases h
    · split at h
      · cases h
      · rename_i hrest
        cases h
        rw [List.length_cons, List.length_cons, ih hrest]

/-- Pass 2 folds each form to one word, and stops at address 4096 (R101, R115, the spec's decision D28). -/
theorem pass2_length {book : AddressBook} {forms : List ParsedLine} {index : Nat} {words : List Word}
    (h : pass2 book forms index = .ok words) (hi : index ≤ Config.memWords) :
    words.length = forms.length ∧ index + words.length ≤ Config.memWords := by
  induction forms generalizing index words with
  | nil =>
    cases h
    exact ⟨rfl, hi⟩
  | cons form rest ih =>
    rw [pass2] at h
    split at h
    · cases h
    · split at h
      · cases h
      · rename_i hlt
        split at h
        · cases h
        · rename_i hrest
          cases h
          obtain ⟨hlen, hle⟩ := ih hrest (by omega)
          rw [List.length_cons, List.length_cons, hlen]
          omega

theorem assembleWith_length {marker : Char} {source : List Char} {words : List Word}
    (h : assembleWith marker source = .ok words) :
    words.length = (sourceLines marker source).length ∧ words.length ≤ Config.memWords := by
  rw [assembleWith] at h
  split at h
  · cases h
  · rename_i hpass
    obtain ⟨hlen, hle⟩ := pass2_length h (Nat.zero_le _)
    exact ⟨hlen.trans (pass1_length hpass), by omega⟩

/-- Storing words is storing their values (R106). -/
theorem storeWords_eq_writeWords (words : List Word) (a : Nat) (s : State) :
    storeWords words a s = writeWords (words.map BitVec.toNat) a s := by
  induction words generalizing a s with
  | nil => rfl
  | cons w words ih => rw [storeWords, ih, List.map_cons, writeWords, BitVec.ofNat_toNat, BitVec.setWidth_eq]

/-- Settles O54: the assembled words are as many as the lines, fit in memory, and are stored from address 0. -/
theorem assemblyIsOneWordPerLine : Obligations.AssemblyIsOneWordPerLine := by
  intro marker source s words hw hs h
  obtain ⟨hlines, hle⟩ := assembleWith_length h
  refine ⟨hlines, hle, _, hostAssembleWith_of_ok hs h, fun k w hk => ?_, fun a ha => ?_⟩
  · have hword : (words.map BitVec.toNat)[k]? = some w.toNat := by rw [List.getElem?_map, hk, Option.map_some]
    have hread := writeWords_read_getElem? (a := 0) hw (by rwa [Nat.zero_add, List.length_map]) hword
    rwa [Nat.zero_add, BitVec.ofNat_toNat, BitVec.setWidth_eq, ← storeWords_eq_writeWords] at hread
  · rw [storeWords_eq_writeWords]
    exact writeWords_read_outside s (.inr (by rwa [Nat.zero_add, List.length_map]))

end Sys2Proof.Machine
end

section
/-! Proofs about the host's moves (10_state.md section 5, 70_reset_and_hazards.md): the invariant after each, the run
start, and O38, O43 and O44. -/

namespace Sys2Proof.Machine

/-! ### The states a host move leaves -/

/-- The state a host move leaves, done or failed, meets a predicate. -/
def HostOutcome.Leaves {α : Type} (p : State → Prop) : HostOutcome α → Prop
  | .done s _ => p s
  | .failed s _ => p s
  | .noSuchMove => True

theorem HostOutcome.Leaves.of_done {α : Type} {p : State → Prop} {o : HostOutcome α} {t : State} {a : α}
    (h : o.Leaves p) (ho : o = .done t a) : p t := by
  subst ho
  exact h

theorem HostOutcome.Leaves.of_failed {α : Type} {p : State → Prop} {o : HostOutcome α} {t : State} {e : FatalError}
    (h : o.Leaves p) (ho : o = .failed t e) : p t := by
  subst ho
  exact h

theorem whenNotRunning_leaves {α : Type} {p : State → Prop} {s : State} {move : HostOutcome α} (h : move.Leaves p) :
    (whenNotRunning s move).Leaves p := by
  unfold whenNotRunning
  split
  · trivial
  · exact h

theorem whenNotRunning_of_running {α : Type} {s : State} (h : s.runState = .running) (move : HostOutcome α) :
    whenNotRunning s move = .noSuchMove := if_pos h

/-! ### The invariant after a write, and after each move -/

/-- The invariant speaks of memory by its form alone, and not of HEAD. -/
theorem writeWord_inv {s : State} {a : Nat} (h : s.Inv) (v : Word) (ha : a < Config.memWords) : (s.writeWord a v).Inv :=
  { h with memory := Memory.write_wf h.memory ha }

/-- A write by the memory primitive is one to an address (20_memory.md R54). -/
theorem memWrite_inv {s t : State} {a v : Nat} (h : s.Inv) (hw : memWrite s a v = .ok t) : t.Inv := by
  unfold memWrite at hw
  split_ifs at hw with ha
  cases hw
  exact writeWord_inv h _ (Nat.not_le.mp ha)

theorem storeFrom_leaves_inv {vs : List Nat} {a : Nat} {s : State} (h : s.Inv) :
    (storeFrom vs a s).Leaves State.Inv := by
  induction vs generalizing a s with
  | nil => exact h
  | cons v vs ih =>
    rw [storeFrom]
    split
    · exact h
    · exact ih (memWrite_inv h ‹_›)

theorem hostStore_leaves_inv {s : State} (h : s.Inv) (v a : Nat) : (hostStore s v a).Leaves State.Inv := by
  refine whenNotRunning_leaves ?_
  split
  · exact h
  · exact memWrite_inv h ‹_›

theorem hostLoad_leaves_inv {s : State} (h : s.Inv) (a : Nat) : (hostLoad s a).Leaves State.Inv := by
  refine whenNotRunning_leaves ?_
  split <;> exact h

theorem hostLoadRange_leaves_inv {s : State} (h : s.Inv) (vs : List Nat) : (hostLoadRange s vs).Leaves State.Inv :=
  whenNotRunning_leaves (storeFrom_leaves_inv { h with })

theorem hostSerializeRange_leaves_inv {s : State} (h : s.Inv) : (hostSerializeRange s).Leaves State.Inv :=
  whenNotRunning_leaves (move := .done s _) h

theorem hostOutcome_leaves_inv {s : State} (h : s.Inv) : (hostOutcome s).Leaves State.Inv :=
  whenNotRunning_leaves (move := .done s _) h

theorem hostStartRun_leaves_inv {s : State} (h : s.Inv) (m : RunMode) : (hostStartRun s m).Leaves State.Inv :=
  whenNotRunning_leaves (move := .done (runStart s m) ()) (runStart_inv h.memory m)

theorem writeWords_inv {vs : List Nat} {a : Nat} {s : State} (h : s.Inv) (ha : a + vs.length ≤ Config.memWords) :
    (writeWords vs a s).Inv := by
  induction vs generalizing a s with
  | nil => exact h
  | cons v vs ih =>
    rw [List.length_cons] at ha
    exact ih (writeWord_inv h _ (by omega)) (by omega)

/-- A successful assembly is as many stores as it has words, all to addresses (30_encoding.md R106, R115). -/
theorem hostAssembleWith_inv {s t : State} {marker : Char} {source : List Char} (h : s.Inv)
    (ha : hostAssembleWith marker source s = .assembled t) : t.Inv := by
  unfold hostAssembleWith at ha
  split at ha
  · cases ha
  · split at ha
    · cases ha
    · rename_i hwords
      cases ha
      obtain ⟨-, hle⟩ := assembleWith_length hwords
      rw [storeWords_eq_writeWords]
      exact writeWords_inv h (by rwa [Nat.zero_add, List.length_map])

/-! ### The statements -/

/-- Settles O38: a move writes through the memory primitive, or starts a run, or changes only what the invariant lets it
change. -/
theorem hostMovesKeepTheInvariant : Obligations.HostMovesKeepTheInvariant := by
  intro s h
  refine ⟨fun vs _ => (hostLoadRange_leaves_inv h vs).of_done, fun vs _ _ => (hostLoadRange_leaves_inv h vs).of_failed,
    fun v a _ => (hostStore_leaves_inv h v a).of_done, fun v a _ _ => (hostStore_leaves_inv h v a).of_failed,
    fun a _ _ => (hostLoad_leaves_inv h a).of_done, fun a _ _ => (hostLoad_leaves_inv h a).of_failed,
    fun _ _ => (hostSerializeRange_leaves_inv h).of_done, fun m _ => (hostStartRun_leaves_inv h m).of_done,
    fun t ht => ?_, fun v t ht => ?_, fun t view ht => ?_, fun _ _ => (hostOutcome_leaves_inv h).of_done,
    fun marker source t => hostAssembleWith_inv h, fun hr => ?_⟩
  · obtain ⟨-, rfl⟩ := hostAcknowledge_eq_done ht
    exact { h with gate := fun hg => by cases hg }
  · obtain ⟨-, rfl⟩ := hostAnswer_eq_done ht
    exact { h with }
  · unfold hostExamine at ht
    split at ht <;> cases ht
    exact ⟨h, h⟩
  · exact ⟨fun _ => whenNotRunning_of_running hr _, fun _ _ => whenNotRunning_of_running hr _,
      whenNotRunning_of_running hr _, fun _ => whenNotRunning_of_running hr _, fun _ _ => if_pos hr⟩

/-- Settles O43: the values stand in the definition of power-on, and its run start is the state after reset. -/
theorem resetIsTheRunStartOfPowerOn : Obligations.ResetIsTheRunStartOfPowerOn :=
  ⟨powerOn_read, rfl, rfl, rfl, rfl, rfl, rfl, rfl, rfl, rfl, rfl, rfl, rfl, rfl, rfl, rfl, powerOn_read, rfl⟩

/-- Settles O44: the move is the run-start reset, and exists while no run is in progress. -/
theorem runStartResetsRegistersAndKeepsMemory : Obligations.RunStartResetsRegistersAndKeepsMemory := fun _ _ =>
  ⟨fun hs => ⟨_, whenNotRunning_of_ne hs _, rfl, rfl, rfl, rfl, rfl, rfl, rfl, rfl, rfl, rfl, rfl, rfl, rfl, rfl, rfl⟩,
    fun hs => whenNotRunning_of_running hs _⟩

end Sys2Proof.Machine
end
